-- ==== Sys2Proof/Word.lean ====
section
/-! DEFINITION. The word types of B64SXP (spec/00_scope.md R6, R7; spec/30_encoding.md R60 to R64). Every value is
unsigned (R8); bit 0 is the least significant bit. -/

namespace Sys2Proof

/-- A byte of a message, or the code of one character of a text: 8 bits (BYTE_W and CHAR_W of R6, R7). -/
abbrev Byte := BitVec 8

/-- A 6-bit value `0..63`, "one quarter of a block" (SEXTET_W of R6). -/
abbrev Sextet := BitVec 6

/-- The 24-bit block of R29 (BLOCK_W of R6). -/
abbrev Block := BitVec 24

/-- The pad field of ENC3: 2 bits, `0..2` legal (R62, R68). -/
abbrev PadField := BitVec 2

/-- The low 32 bits of a request or a response word: four 8-bit lanes (R61, R63, LANE_W of R7). -/
abbrev Payload := BitVec 32

/-- A request word REQ: 35 bits (REQ_W of R7, R60). -/
abbrev Request := BitVec 35

/-- A response word RSP: 37 bits (RSP_W of R7, R60). -/
abbrev ResponseWord := BitVec 37

end Sys2Proof
end

