-- ==== Sys2Proof/Syntax.lean ====
section
/-! DEFINITION. The commands of B64SXP as syntax: one constructor per row of spec/opcode_table.json (R65). Operands are
unsigned fields of the payload (R70), laid out by the format of R62. -/

namespace Sys2Proof

/-- The six commands of R65. -/
inductive Instr
  /-- XTR6, op 0, format B: a 24-bit block to four sextets (R114). -/
  | xtr6 (blk : Block)
  /-- PCK6, op 1, format L: four sextets to a 24-bit block, `v0` most significant (R115). -/
  | pck6 (v0 v1 v2 v3 : Sextet)
  /-- ALUT, op 2, format X: a sextet to its alphabet character (R90). -/
  | alut (s : Sextet)
  /-- RLUT, op 3, format C: a character code to its sextet, pad or invalid (R91). -/
  | rlut (c : Byte)
  /-- ENC3, op 4, format E: a group of three bytes, `pad` of them fill, to four characters (R132). -/
  | enc3 (pad : PadField) (b0 b1 b2 : Byte)
  /-- DEC4, op 5, format D: a group of four characters to up to three bytes (R135). -/
  | dec4 (c0 c1 c2 c3 : Byte)
deriving DecidableEq, Repr

/-- The mnemonics of R65, for the assembler notation of R72. -/
inductive Mnemonic
  | XTR6 | PCK6 | ALUT | RLUT | ENC3 | DEC4
deriving DecidableEq, Repr

/-- The mnemonic of a command (R65). -/
def Instr.mnemonic : Instr → Mnemonic
  | .xtr6 _       => .XTR6
  | .pck6 _ _ _ _ => .PCK6
  | .alut _       => .ALUT
  | .rlut _       => .RLUT
  | .enc3 _ _ _ _ => .ENC3
  | .dec4 _ _ _ _ => .DEC4

end Sys2Proof
end

