-- ==== Sys2Proof/WellFormed.lean ====
section
/-! DEFINITION. Which commands a request word can hold. The operand types carry every range of R72 but one: the pad
field of ENC3 has a fourth value, which R68 reserves. -/

namespace Sys2Proof

/-- A command is well-formed when its operands are in the ranges of R72: `pad = 3` of ENC3 is not (R68). -/
def Instr.wellFormed : Instr → Bool
  | .xtr6 _         => true
  | .pck6 _ _ _ _   => true
  | .alut _         => true
  | .rlut _         => true
  | .enc3 pad _ _ _ => pad != 3#2
  | .dec4 _ _ _ _   => true

end Sys2Proof
end

