-- ==== Sys2Proof/Decode.lean ====
section
/-! DEFINITION. The decoder and the encoder of spec/30_encoding.md: fields (R61, R62), opcode map (R65), reserved and
illegal encodings (R66 to R69), totality (R74). Below them the opcode table of spec/opcode_table.json as rows. -/

namespace Sys2Proof

/-! ## Fields -/

/-- The opcode field `REQ[34:32]` (R61). -/
def opOf (r : Request) : BitVec 3 := r.extractLsb' 32 3

/-- The payload field `REQ[31:0]` (R61). -/
def payloadOf (r : Request) : Payload := r.extractLsb' 0 32

/-- `lane_i(w) = w[31 - 8*i : 24 - 8*i]`: lane 0 is the most significant byte (spec/00_scope.md section 4.2, R45). -/
def lane (i : Fin 4) (w : Payload) : Byte := w.extractLsb' (24 - 8 * i.val) 8

/-- A sextet operand in an 8-bit lane: the low 6 bits of the lane (R70). -/
def laneSextet (i : Fin 4) (w : Payload) : Sextet := (lane i w).extractLsb' 0 6

/-- The pad field `payload[25:24]` of format E (R62). -/
def padFieldOf (w : Payload) : PadField := w.extractLsb' 24 2

/-! ## Decoder -/

/-- Why a request word is no command; each of the three is answered `IllegalCommand` (R74 cases 1 and 2). -/
inductive Reject
  /-- `op` is 6 or 7 (R66). -/
  | reservedOpcode
  /-- A bit that R62 marks reserved is 1 (R67). -/
  | reservedBits
  /-- ENC3 with `pad = 3` (R68). -/
  | reservedPad
deriving DecidableEq, Repr

/-- The reserved payload bits of each opcode (R67): they must be zero. Opcodes 6 and 7 have no format. -/
def reservedMask (op : BitVec 3) : Payload :=
  match op.toNat with
  | 0 => 0xFF000000#32
  | 1 => 0xC0C0C0C0#32
  | 2 => 0xFFFFFFC0#32
  | 3 => 0xFFFFFF00#32
  | 4 => 0xFC000000#32
  | _ => 0x00000000#32

/-- The operands of a command whose reserved bits are zero, by its format (R62), for opcodes 0 to 5 (R65). -/
def operandsOf (op : BitVec 3) (w : Payload) : Except Reject Instr :=
  match op.toNat with
  | 0 => .ok (.xtr6 (w.extractLsb' 0 24))
  | 1 => .ok (.pck6 (laneSextet 0 w) (laneSextet 1 w) (laneSextet 2 w) (laneSextet 3 w))
  | 2 => .ok (.alut (w.extractLsb' 0 6))
  | 3 => .ok (.rlut (lane 3 w))
  | 4 => if padFieldOf w = 3#2 then .error .reservedPad
         else .ok (.enc3 (padFieldOf w) (lane 1 w) (lane 2 w) (lane 3 w))
  | 5 => .ok (.dec4 (lane 0 w) (lane 1 w) (lane 2 w) (lane 3 w))
  | _ => .error .reservedOpcode

/-- Decoding, total on all `2^35` request words, in the order of R74: opcode, reserved bits and reserved pad, command. -/
def decode (r : Request) : Except Reject Instr :=
  if payloadOf r &&& reservedMask (opOf r) = 0#32 then operandsOf (opOf r) (payloadOf r)
  else .error .reservedBits

/-- The instruction a table-numbered word decodes to: bits above `nbits` are zero, and a number that does not fit the
35 bits of a request word is no request word at all (log entry 10). -/
def decodeTableWord (nbits w : Nat) : Option Instr :=
  if w % 2 ^ nbits < 2 ^ 35 then
    match decode (BitVec.ofNat 35 (w % 2 ^ nbits)) with
    | .ok i    => some i
    | .error _ => none
  else none

/-! ## Encoder -/

/-- `lanes(x0, x1, x2, x3) = x0 ‖ x1 ‖ x2 ‖ x3` (spec/00_scope.md section 4.2). -/
def lanes (x0 x1 x2 x3 : Byte) : Payload := x0 ++ x1 ++ x2 ++ x3

/-- `zext_8` of a sextet: a sextet in a lane has the high 2 bits zero (R45, R70). -/
def sextetLane (v : Sextet) : Byte := 0#2 ++ v

/-- A request word of an opcode and a payload (R61). -/
def requestWord (op : BitVec 3) (w : Payload) : Request := op ++ w

/-- The request word of a command, from the formats of R62 and the opcodes of R65. -/
def encode : Instr → Request
  | .xtr6 blk           => requestWord 0#3 (0#8 ++ blk)
  | .pck6 v0 v1 v2 v3   => requestWord 1#3 (lanes (sextetLane v0) (sextetLane v1) (sextetLane v2) (sextetLane v3))
  | .alut s             => requestWord 2#3 (0#26 ++ s)
  | .rlut c             => requestWord 3#3 (0#24 ++ c)
  | .enc3 pad b0 b1 b2  => requestWord 4#3 (0#6 ++ pad ++ b0 ++ b1 ++ b2)
  | .dec4 c0 c1 c2 c3   => requestWord 5#3 (lanes c0 c1 c2 c3)

/-! ## The opcode table as rows -/

/-- One row of spec/opcode_table.json: the words of the command are those `r` with `r &&& mask = value`, less those
with `r &&& exMask = exMask` where the row excludes some (`exMask = 0`: it excludes none). -/
structure OpRow where
  mnemonic : Mnemonic
  mask     : Request
  value    : Request
  exMask   : Request
deriving DecidableEq, Repr

/-- The six rows of spec/opcode_table.json. -/
def opTable : List OpRow :=
  [ ⟨.XTR6, 0x7FF000000#35, 0x000000000#35, 0#35⟩,
    ⟨.PCK6, 0x7C0C0C0C0#35, 0x100000000#35, 0#35⟩,
    ⟨.ALUT, 0x7FFFFFFC0#35, 0x200000000#35, 0#35⟩,
    ⟨.RLUT, 0x7FFFFFF00#35, 0x300000000#35, 0#35⟩,
    ⟨.ENC3, 0x7FC000000#35, 0x400000000#35, 0x003000000#35⟩,
    ⟨.DEC4, 0x700000000#35, 0x500000000#35, 0#35⟩ ]

/-- Whether a request word is one of the words of a row. -/
def OpRow.covers (row : OpRow) (r : Request) : Bool :=
  r &&& row.mask == row.value && (row.exMask == 0#35 || r &&& row.exMask != row.exMask)

end Sys2Proof
end

