-- ==== Sys2Proof/Machine/State.lean ====
section
/-! DEFINITION. State, statuses, the response's fields, faults and refusals. The block itself has NO persistent state
(spec/10_state.md R20 to R24, R30, R31, R33); what State holds is its interface to the host, as plain data. -/

namespace Sys2Proof.Machine

/-- The statuses of R190: exactly these five. -/
inductive Status
  /-- No error (code 0). -/
  | ok
  /-- A text's length is not a multiple of 4 (code 1); only the procedure DECODE reports it (R191). -/
  | invalidLength
  /-- A character code of class INVALID (code 2, R192). -/
  | invalidCharacter
  /-- Pad characters where a well-formed text has none (code 3, R193). -/
  | misplacedPadding
  /-- The request word is not a command (code 4, R194). -/
  | illegalCommand
deriving DecidableEq, Repr

/-- The three fields of a response word (R63). -/
structure Response where
  status  : Status
  count   : BitVec 2
  payload : Payload
deriving DecidableEq, Repr

/-- The interface between host and block (log entry 1). "A command is presented by the host as a request word,
evaluated, and answered" (R22): `pending` holds the request words presented and not yet answered, oldest first;
`responses` the response words answered, oldest first, so that each request gets its own response (R204, R224). Neither
is state of the block: no response depends on them beyond the request word it answers (R20). -/
structure State where
  pending   : List Request
  responses : List ResponseWord
deriving DecidableEq, Repr

/-- Reset: the block holds no state, so there is nothing for a reset to set (R33, R220); the host has presented nothing
and been answered nothing yet (DESIGN CHOICE, log entry 2). -/
def State.reset : State := { pending := [], responses := [] }

/-- The machine never stops with a fault: every request word has a response, an error being a response too (R20, R74,
R198, R225: "no way for a command to hang"). So there is no constructor (log entry 17). -/
inductive Fault
deriving DecidableEq, Repr

/-- Why a step has no meaning. -/
inductive Refusal
  /-- An instruction of the table that has no meaning yet. Safe: the run stops. Raised by no arm: all six commands of
  R65 have their meaning. -/
  | notModelled (mnemonic : String)
deriving DecidableEq, Repr

end Sys2Proof.Machine
end

