-- ==== Sys2Proof/Machine/Ops.lean ====
section
/-! DEFINITION. The operations every command shares: taking the next request word, the response word and its fields
(spec/30_encoding.md R63, R75), `respond` and `raise` (spec/00_scope.md section 4.3), the host's side of the interface. -/

namespace Sys2Proof.Machine

/-! ## The response word -/

/-- The code of a status (R190). -/
def Status.code : Status → BitVec 3
  | .ok               => 0#3
  | .invalidLength    => 1#3
  | .invalidCharacter => 2#3
  | .misplacedPadding => 3#3
  | .illegalCommand   => 4#3

/-- The status of a code; codes 5 to 7 are no status (R190). -/
def Status.ofCode (k : BitVec 3) : Option Status :=
  match k.toNat with
  | 0 => some .ok
  | 1 => some .invalidLength
  | 2 => some .invalidCharacter
  | 3 => some .misplacedPadding
  | 4 => some .illegalCommand
  | _ => none

/-- The response word of three fields: `status` in 36:34, `count` in 33:32, `payload` in 31:0 (R63). -/
def Response.toWord (x : Response) : ResponseWord := x.status.code ++ x.count ++ x.payload

/-- `RSP[36:34]` (R63). -/
def statusField (w : ResponseWord) : BitVec 3 := w.extractLsb' 34 3

/-- `RSP[33:32]` (R63). -/
def countField (w : ResponseWord) : BitVec 2 := w.extractLsb' 32 2

/-- `RSP[31:0]` (R63). -/
def rspPayload (w : ResponseWord) : Payload := w.extractLsb' 0 32

/-- The fields of a response word, as a host reads them; none where the status code is no status (R190). -/
def Response.ofWord (w : ResponseWord) : Option Response :=
  match Status.ofCode (statusField w) with
  | some st => some ⟨st, countField w, rspPayload w⟩
  | none    => none

/-- The response of a command that succeeds: status OK (`respond(count, payload)`, spec/00_scope.md section 4.3). -/
def okResponse (count : BitVec 2) (payload : Payload) : Response := ⟨.ok, count, payload⟩

/-- The error response of a status: count 0 and payload 0, "the response word is `status << 34`" (R75). -/
def errorResponse (st : Status) : Response := ⟨st, 0#2, 0#32⟩

/-! ## What a step does to the interface -/

/-- The next request word to evaluate, and the state with it taken (R22). -/
def fetch (s : State) : Option (Request × State) :=
  match s.pending with
  | []        => none
  | r :: rest => some (r, { s with pending := rest })

/-- Deliver the response of the command being evaluated: it is added after the earlier responses, which stay. -/
def answer (x : Response) (s : State) : State :=
  { s with responses := s.responses ++ [x.toWord] }

/-- End the command with a response. -/
def finish (x : Response) (s : State) : Host.Outcome State Fault Refusal :=
  .next (answer x s)

/-- `respond(count, payload)`: end the command with status OK (spec/00_scope.md section 4.3). -/
def respond (count : BitVec 2) (payload : Payload) (s : State) : Host.Outcome State Fault Refusal :=
  finish (okResponse count payload) s

/-- `raise <Status>`, the nearest thing to taking an exception (R198): "the command ends; its response is
`status << 34`". Nothing is saved, no mode or mask changes, control goes nowhere, nothing is latched (R198, R199). There
is no return from it: "There is no return-from-trap command and nothing to restore" (R199). -/
def raise (st : Status) (s : State) : Host.Outcome State Fault Refusal :=
  finish (errorResponse st) s

/-! ## The host's side, and reset -/

/-- The host presents one request word after those already presented (R22). -/
def State.give (r : Request) (s : State) : State :=
  { s with pending := s.pending ++ [r] }

/-- The host presents request words in order. -/
def State.giveAll (rs : List Request) (s : State) : State :=
  { s with pending := s.pending ++ rs }

/-- A reset or a loss of power between two commands: "Reset has no architectural effect" (R220, R206; log entry 18). -/
def resetInput (s : State) : State := s

end Sys2Proof.Machine
end

