-- ==== Sys2Proof/Machine/Alphabet.lean ====
section
/-! DEFINITION. The two read-only table spaces of the block (spec/20_memory.md R40): the alphabet `ALPHA` and its
inverse `RALPHA` (spec/10_state.md R25, R26), the constants `PADCHAR` and `FILL` (R27, R28), and the lookup functions
`alut` and `rlut` (spec/40_alphabet_lookup.md R92, R93). The codes are ASCII (log entry 7). -/

namespace Sys2Proof.Machine

/-- The character code of `=` (R27). -/
def PADCHAR : Byte := 0x3D#8

/-- The padding marker, "a sentinel byte value (0)" (R28). -/
def FILL : Byte := 0x00#8

/-- Entries 0 to 15 of the table of R25. -/
def alphaColumn0 : List Byte :=
  [0x41#8, 0x42#8, 0x43#8, 0x44#8, 0x45#8, 0x46#8, 0x47#8, 0x48#8,
   0x49#8, 0x4A#8, 0x4B#8, 0x4C#8, 0x4D#8, 0x4E#8, 0x4F#8, 0x50#8]

/-- Entries 16 to 31 of the table of R25. -/
def alphaColumn1 : List Byte :=
  [0x51#8, 0x52#8, 0x53#8, 0x54#8, 0x55#8, 0x56#8, 0x57#8, 0x58#8,
   0x59#8, 0x5A#8, 0x61#8, 0x62#8, 0x63#8, 0x64#8, 0x65#8, 0x66#8]

/-- Entries 32 to 47 of the table of R25. -/
def alphaColumn2 : List Byte :=
  [0x67#8, 0x68#8, 0x69#8, 0x6A#8, 0x6B#8, 0x6C#8, 0x6D#8, 0x6E#8,
   0x6F#8, 0x70#8, 0x71#8, 0x72#8, 0x73#8, 0x74#8, 0x75#8, 0x76#8]

/-- Entries 48 to 63 of the table of R25. -/
def alphaColumn3 : List Byte :=
  [0x77#8, 0x78#8, 0x79#8, 0x7A#8, 0x30#8, 0x31#8, 0x32#8, 0x33#8,
   0x34#8, 0x35#8, 0x36#8, 0x37#8, 0x38#8, 0x39#8, 0x2B#8, 0x2F#8]

/-- The table space `ALPHA`: 64 character codes, read-only (R25, R40). -/
def ALPHA : List Byte := alphaColumn0 ++ alphaColumn1 ++ alphaColumn2 ++ alphaColumn3

/-- "Every index of either space is populated" (R40). -/
theorem ALPHA_length : ALPHA.length = 64 := rfl

/-- `MemRead(ALPHA + i, 1)`: a 6-bit index cannot be out of range (R40, R48). -/
def readALPHA (i : Sextet) : Byte := ALPHA[i.toNat]'(by rw [ALPHA_length]; exact i.isLt)

/-- The classes of a character code (R26). -/
inductive CharClass
  /-- One of the 64 characters of the alphabet. -/
  | alphaChar
  /-- The pad character `=`. -/
  | padChar
  /-- Any other code. -/
  | invalid
deriving DecidableEq, Repr

/-- One entry of the table space `RALPHA`: a class and a 6-bit value (R26). -/
structure RalphaEntry where
  cls : CharClass
  val : Sextet
deriving DecidableEq, Repr

/-- `MemRead(RALPHA + c, 1)`, the pair `(RCLASS[c], RVAL[c])` by the ranges of R26. -/
def readRALPHA (c : Byte) : RalphaEntry :=
  if 0x41 ≤ c.toNat ∧ c.toNat ≤ 0x5A then ⟨.alphaChar, BitVec.ofNat 6 (c.toNat - 0x41)⟩
  else if 0x61 ≤ c.toNat ∧ c.toNat ≤ 0x7A then ⟨.alphaChar, BitVec.ofNat 6 (c.toNat - 0x61 + 26)⟩
  else if 0x30 ≤ c.toNat ∧ c.toNat ≤ 0x39 then ⟨.alphaChar, BitVec.ofNat 6 (c.toNat - 0x30 + 52)⟩
  else if c = 0x2B#8 then ⟨.alphaChar, 62#6⟩
  else if c = 0x2F#8 then ⟨.alphaChar, 63#6⟩
  else if c = 0x3D#8 then ⟨.padChar, 0#6⟩
  else ⟨.invalid, 0#6⟩

/-- `RCLASS[c]` (R26). -/
def RCLASS (c : Byte) : CharClass := (readRALPHA c).cls

/-- `RVAL[c]` (R26). -/
def RVAL (c : Byte) : Sextet := (readRALPHA c).val

/-- `alut(s) = ALPHA[s]` (R92). -/
def alut (s : Sextet) : Byte := readALPHA s

/-- What `rlut` returns (R93). -/
inductive Lookup
  /-- A character of the alphabet, with its 6-bit value. -/
  | value (v : Sextet)
  /-- The pad character; its value, where one is needed, is 0. -/
  | pad
  /-- Neither. -/
  | invalid
deriving DecidableEq, Repr

/-- `rlut(c)` (R93). -/
def rlut (c : Byte) : Lookup :=
  match (readRALPHA c).cls with
  | .alphaChar => .value (readRALPHA c).val
  | .padChar   => .pad
  | .invalid   => .invalid

/-- The 6-bit value a lookup contributes: "pad characters map to value 0 (placeholder)" (R93, R135). -/
def Lookup.sextet : Lookup → Sextet
  | .value v => v
  | .pad     => 0#6
  | .invalid => 0#6

end Sys2Proof.Machine
end

