-- ==== Sys2Proof/Machine/Operands.lean ====
section
/-! DEFINITION. The datapath functions on operands: joining and cutting the 24-bit block
(spec/41_sextet_datapath.md R110 to R113), fill, pad replacement and drop (spec/42_group_codec.md R130, R131, R134),
and the response payload layouts (spec/30_encoding.md R64). -/

namespace Sys2Proof.Machine

/-- Four sextets, `s0` most significant (R29, R43). -/
structure Sextets where
  s0 : Sextet
  s1 : Sextet
  s2 : Sextet
  s3 : Sextet
deriving DecidableEq, Repr

/-- Three bytes, `o0` first in the message (R29, R43). -/
structure Bytes3 where
  o0 : Byte
  o1 : Byte
  o2 : Byte
deriving DecidableEq, Repr

/-- Four character codes, `c0` first in the text (R29). -/
structure Chars4 where
  c0 : Byte
  c1 : Byte
  c2 : Byte
  c3 : Byte
deriving DecidableEq, Repr

/-- `cat3(b0, b1, b2) = (b0 << 16) | (b1 << 8) | b2` (R110). -/
def cat3 (b : Bytes3) : Block :=
  (b.o0.setWidth 24 <<< 16) ||| (b.o1.setWidth 24 <<< 8) ||| b.o2.setWidth 24

/-- `xtr6(blk)`: shifts 18, 12, 6, 0, each masked with `0x3F` (R111). -/
def xtr6 (blk : Block) : Sextets :=
  { s0 := ((blk >>> 18) &&& 0x3F#24).setWidth 6
    s1 := ((blk >>> 12) &&& 0x3F#24).setWidth 6
    s2 := ((blk >>> 6) &&& 0x3F#24).setWidth 6
    s3 := (blk &&& 0x3F#24).setWidth 6 }

/-- `pck6(v0, v1, v2, v3) = (v0 << 18) | (v1 << 12) | (v2 << 6) | v3` (R112). -/
def pck6 (v : Sextets) : Block :=
  (v.s0.setWidth 24 <<< 18) ||| (v.s1.setWidth 24 <<< 12) ||| (v.s2.setWidth 24 <<< 6) ||| v.s3.setWidth 24

/-- `ext8(blk)`: shifts 16, 8, 0, each masked with `0xFF` (R113). -/
def ext8 (blk : Block) : Bytes3 :=
  { o0 := ((blk >>> 16) &&& 0xFF#24).setWidth 8
    o1 := ((blk >>> 8) &&& 0xFF#24).setWidth 8
    o2 := (blk &&& 0xFF#24).setWidth 8 }

/-- `fill(pad, b0, b1, b2)`: the last `pad` bytes of the group become `FILL` (R130). -/
def fill (pad : PadField) (b : Bytes3) : Bytes3 :=
  match pad.toNat with
  | 0 => b
  | 1 => ⟨b.o0, b.o1, FILL⟩
  | _ => ⟨b.o0, FILL, FILL⟩

/-- `padrep(pad, c0, c1, c2, c3)`: the last `pad` characters of the group become `PADCHAR` (R131). -/
def padrep (pad : PadField) (c : Chars4) : Chars4 :=
  match pad.toNat with
  | 0 => c
  | 1 => ⟨c.c0, c.c1, c.c2, PADCHAR⟩
  | _ => ⟨c.c0, c.c1, PADCHAR, PADCHAR⟩

/-- `drop(pad, o0, o1, o2)`: the first `3 - pad` bytes are kept, the others are zero (R134). -/
def drop (pad : PadField) (o : Bytes3) : BitVec 2 × Bytes3 :=
  match pad.toNat with
  | 0 => (3#2, o)
  | 1 => (2#2, ⟨o.o0, o.o1, 0#8⟩)
  | _ => (1#2, ⟨o.o0, 0#8, 0#8⟩)

/-- The four characters of four sextets: four reads of ALPHA (R132, R48). -/
def alutAll (s : Sextets) : Chars4 := ⟨alut s.s0, alut s.s1, alut s.s2, alut s.s3⟩

/-! ## Response payloads (R64) -/

/-- XTR6's payload: `s0` in lane 0, every sextet zero-extended to 8 bits. -/
def sextetPayload (s : Sextets) : Payload :=
  lanes (sextetLane s.s0) (sextetLane s.s1) (sextetLane s.s2) (sextetLane s.s3)

/-- PCK6's payload: `zext_32(BLK)`. -/
def blockPayload (blk : Block) : Payload := blk.setWidth 32

/-- ALUT's payload: `zext_32(ch)`. -/
def charPayload (ch : Byte) : Payload := ch.setWidth 32

/-- ENC3's payload: `c0` in lane 0. -/
def charsPayload (c : Chars4) : Payload := lanes c.c0 c.c1 c.c2 c.c3

/-- DEC4's payload: lane 0 zero, `d0` in lane 1. -/
def bytesPayload (d : Bytes3) : Payload := lanes 0#8 d.o0 d.o1 d.o2

end Sys2Proof.Machine
end

