-- ==== Sys2Proof/Machine/Flags.lean ====
section
/-! DEFINITION. The result fields that look like flags (spec/10_state.md R23: none persists): the pad flags of a
group and their classification (spec/42_group_codec.md R133), and RLUT's `ispad` bit (spec/40_alphabet_lookup.md R91). -/

namespace Sys2Proof.Machine

/-- `p_i`: 1 when `rlut(c_i) = Pad` and 0 otherwise (R133). -/
def Lookup.isPad : Lookup → Bool
  | .value _ => false
  | .pad     => true
  | .invalid => false

/-- Whether `rlut(c_i) = Invalid` (R135). -/
def Lookup.isInvalid : Lookup → Bool
  | .value _ => false
  | .pad     => false
  | .invalid => true

/-- What `padcls` gives (R133). -/
inductive PadPattern
  /-- The pad count of the group. -/
  | count (pad : PadField)
  /-- One of the 13 refused patterns. -/
  | misplaced
deriving DecidableEq, Repr

/-- `padcls(p0, p1, p2, p3)` (R133): the three accepted patterns, and the thirteen others. -/
def padcls (p0 p1 p2 p3 : Bool) : PadPattern :=
  match p0, p1, p2, p3 with
  | false, false, false, false => .count 0#2
  | false, false, false, true  => .count 1#2
  | false, false, true,  true  => .count 2#2
  | _,     _,     _,     _     => .misplaced

/-- RLUT's payload: the value in bits 5:0 and `ispad` in bit 8, all other bits zero (R64, R91). -/
def lookupPayload (ispad : Bool) (v : Sextet) : Payload :=
  0#23 ++ BitVec.ofBool ispad ++ 0#2 ++ v

end Sys2Proof.Machine
end

