-- ==== Sys2Proof/Machine/AlphabetLookup.lean ====
section
/-! DEFINITION. The family of spec/40_alphabet_lookup.md: ALUT (R90) and RLUT (R91). -/

namespace Sys2Proof.Machine

/-- ALUT: `respond(0, zext_32(alut(s)))`; every sextet has a character (R90). -/
def execAlut (s : Sextet) (st : State) : Host.Outcome State Fault Refusal :=
  respond 0#2 (charPayload (alut s)) st

/-- RLUT: the value, or the pad character with `ispad = 1`, or `InvalidCharacter` (R91). -/
def execRlut (c : Byte) (st : State) : Host.Outcome State Fault Refusal :=
  match rlut c with
  | .value v => respond 0#2 (lookupPayload false v) st
  | .pad     => respond 0#2 (lookupPayload true 0#6) st
  | .invalid => raise .invalidCharacter st

end Sys2Proof.Machine
end

