-- ==== Sys2Proof/Machine/GroupCodec.lean ====
section
/-! DEFINITION. The family of spec/42_group_codec.md: ENC3 (R132) and DEC4 (R135). -/

namespace Sys2Proof.Machine

/-- The four characters of a group of three bytes, `pad` of them fill: `fill`, `cat3`, `xtr6`, four `alut`, `padrep`
(R132). -/
def encodeGroup (pad : PadField) (b : Bytes3) : Chars4 :=
  padrep pad (alutAll (xtr6 (cat3 (fill pad b))))

/-- ENC3 (R132). `pad = 3` raises `IllegalCommand` (R68); no decoded request word holds it (log entry 5). -/
def execEnc3 (pad : PadField) (b0 b1 b2 : Byte) (st : State) : Host.Outcome State Fault Refusal :=
  if pad = 3#2 then raise .illegalCommand st
  else respond 0#2 (charsPayload (encodeGroup pad ⟨b0, b1, b2⟩)) st

/-- The bytes of four looked-up characters of which the last `pad` are pads, with the count of those kept: `pck6`,
`ext8`, `drop` (R135). Left-over bits before a pad are dropped unchecked (R135 corner cases, D18). -/
def decodeGroup (pad : PadField) (r0 r1 r2 r3 : Lookup) : BitVec 2 × Bytes3 :=
  drop pad (ext8 (pck6 ⟨r0.sextet, r1.sextet, r2.sextet, r3.sextet⟩))

/-- DEC4 (R135): `InvalidCharacter` is tested first (R197), then the pad pattern. -/
def execDec4 (c0 c1 c2 c3 : Byte) (st : State) : Host.Outcome State Fault Refusal :=
  if (rlut c0).isInvalid || (rlut c1).isInvalid || (rlut c2).isInvalid || (rlut c3).isInvalid then
    raise .invalidCharacter st
  else
    match padcls (rlut c0).isPad (rlut c1).isPad (rlut c2).isPad (rlut c3).isPad with
    | .misplaced => raise .misplacedPadding st
    | .count pad =>
      let kept := decodeGroup pad (rlut c0) (rlut c1) (rlut c2) (rlut c3)
      respond kept.1 (bytesPayload kept.2) st

end Sys2Proof.Machine
end

