-- ==== Sys2Proof/Machine/SextetDatapath.lean ====
section
/-! DEFINITION. The family of spec/41_sextet_datapath.md: XTR6 (R114) and PCK6 (R115). -/

namespace Sys2Proof.Machine

/-- XTR6: the four sextets of the block, one per lane (R114). -/
def execXtr6 (blk : Block) (st : State) : Host.Outcome State Fault Refusal :=
  respond 0#2 (sextetPayload (xtr6 blk)) st

/-- PCK6: the block of four sextets, `v0` most significant (R115). -/
def execPck6 (v0 v1 v2 v3 : Sextet) (st : State) : Host.Outcome State Fault Refusal :=
  respond 0#2 (blockPayload (pck6 ⟨v0, v1, v2, v3⟩)) st

end Sys2Proof.Machine
end

