-- ==== Sys2Proof/Machine/Dispatch.lean ====
section
/-! DEFINITION. One arm per command of R65, each one call of its meaning. -/

namespace Sys2Proof.Machine

/-- The effect of a decoded command on the interface: its response is delivered (R20, R65). -/
def exec (i : Instr) (s : State) : Host.Outcome State Fault Refusal :=
  match i with
  -- spec/41_sextet_datapath.md
  | .xtr6 blk => Sys2Proof.Machine.execXtr6 blk s
  | .pck6 v0 v1 v2 v3 => Sys2Proof.Machine.execPck6 v0 v1 v2 v3 s
  -- spec/40_alphabet_lookup.md
  | .alut v => Sys2Proof.Machine.execAlut v s
  | .rlut c => Sys2Proof.Machine.execRlut c s
  -- spec/42_group_codec.md
  | .enc3 pad b0 b1 b2 => Sys2Proof.Machine.execEnc3 pad b0 b1 b2 s
  | .dec4 c0 c1 c2 c3 => Sys2Proof.Machine.execDec4 c0 c1 c2 c3 s

end Sys2Proof.Machine
end

