-- ==== Sys2Proof/Machine/Step.lean ====
section
/-! DEFINITION. One step: the next request word is taken, decoded and answered. -/

namespace Sys2Proof.Machine

/-- One step. A request word that decodes is executed; one that is no command is answered `IllegalCommand` (R66, R67,
R68, R74). With no request word presented there is nothing to evaluate and nothing changes (DESIGN CHOICE, log entry 3):
"The block has no run ... there is only a command and its response" (R227). -/
def step (s : State) : Host.Outcome State Fault Refusal :=
  match fetch s with
  | none => .next s
  | some (r, s') =>
    match decode r with
    | .ok i    => exec i s'
    | .error _ => raise .illegalCommand s'

/-- The state in which the very next step evaluates the request word `w` (bits above `nbits` zero): the word stands
before every other presented one, and nothing else changes (log entry 10). -/
def State.withFetchWord (s : State) (nbits w : Nat) : State :=
  { s with pending := BitVec.ofNat 35 (w % 2 ^ nbits) :: s.pending }

end Sys2Proof.Machine
end

