-- ==== Sys2Proof/Config.lean ====
section
/-! DEFINITION. The parameters of spec/00_scope.md: R6 (fixed by the source) and R7 (decided by the spec). "A model
takes them as constants, not as arguments." There is no free value: the spec gives every request word one response. -/

namespace Sys2Proof.Config

/-- Width of a message byte (R6). -/
abbrev BYTE_W : Nat := 8
/-- Width of a sextet (R6). -/
abbrev SEXTET_W : Nat := 6
/-- Width of the block (R6). -/
abbrev BLOCK_W : Nat := 24
/-- Bytes per group in the encode direction (R6). -/
abbrev GROUP_BYTES : Nat := 3
/-- Characters per group in the decode direction (R6). -/
abbrev GROUP_CHARS : Nat := 4
/-- Number of alphabet entries (R6). -/
abbrev ALPHA_N : Nat := 64
/-- The largest pad count (R6). -/
abbrev PAD_MAX : Nat := 2
/-- Width of a character code on the wires (R7, D7). -/
abbrev CHAR_W : Nat := 8
/-- Width of the request word (R7, D3). -/
abbrev REQ_W : Nat := 35
/-- Width of the response word (R7, D4). -/
abbrev RSP_W : Nat := 37
/-- Width of the opcode field (R7, D3, D6). -/
abbrev OP_W : Nat := 3
/-- Width of the status field (R7, D4, D8). -/
abbrev STATUS_W : Nat := 3
/-- Width of one payload lane (R7, D5). -/
abbrev LANE_W : Nat := 8

/-- Bound on the length of a message or a text given to ENCODE or DECODE: none, "unbounded" (R7, R160, D24). -/
def MAX_MSG_LEN : Option Nat := none

/-- Whether a length is admitted by `MAX_MSG_LEN`: with the spec's default every length is (R160). -/
def lengthAdmitted (n : Nat) : Bool :=
  match MAX_MSG_LEN with
  | none   => true
  | some m => decide (n ≤ m)

end Sys2Proof.Config
end

