-- ==== Sys2Proof/Machine/Assembler.lean ====
section
/-! DEFINITION. The notation for commands of spec/30_encoding.md R72: "its mnemonic followed by its operands in the order
of its format, most significant field first, separated by commas". First on operands already read, then on a line of
text. "An assembler must refuse an operand outside its range rather than set a reserved bit." -/

namespace Sys2Proof.Machine

/-- An operand as R72 writes it. -/
inductive AsmOperand
  /-- A number, decimal or `0x` hexadecimal. -/
  | num (n : Nat)
  /-- A quoted character, standing for its code. -/
  | chr (code : Byte)
  /-- A string of characters, the short form of DEC4's operands. -/
  | text (codes : List Byte)
deriving DecidableEq, Repr

/-- A number below `2^w` as a field of `w` bits; no character stands here (R72). -/
def AsmOperand.field (w : Nat) : AsmOperand → Option (BitVec w)
  | .num n  => if n < 2 ^ w then some (BitVec.ofNat w n) else none
  | .chr _  => none
  | .text _ => none

/-- A byte: a number `0 .. 0xFF` or a quoted character (R72). -/
def AsmOperand.byte : AsmOperand → Option Byte
  | .num n  => if n < 2 ^ 8 then some (BitVec.ofNat 8 n) else none
  | .chr c  => some c
  | .text _ => none

/-- A pad count `0 .. 2` (R72). -/
def AsmOperand.padCount (x : AsmOperand) : Option PadField :=
  match x.field 2 with
  | some p => if p = 3#2 then none else some p
  | none   => none

/-- The command of a mnemonic and its operands; none where the operands are not those of the format or one is out of
its range (R72). -/
def assemble (m : Mnemonic) (xs : List AsmOperand) : Option Instr :=
  match m, xs with
  | .XTR6, [x]          => do some (.xtr6 (← x.field 24))
  | .PCK6, [x, y, z, t] => do some (.pck6 (← x.field 6) (← y.field 6) (← z.field 6) (← t.field 6))
  | .ALUT, [x]          => do some (.alut (← x.field 6))
  | .RLUT, [x]          => do some (.rlut (← x.byte))
  | .ENC3, [x, y, z, t] => do some (.enc3 (← x.padCount) (← y.byte) (← z.byte) (← t.byte))
  | .DEC4, [.text [c0, c1, c2, c3]] => some (.dec4 c0 c1 c2 c3)
  | .DEC4, [x, y, z, t] => do some (.dec4 (← x.byte) (← y.byte) (← z.byte) (← t.byte))
  | _, _ => none

/-! ## Reading a line of text (log entries 15, 16) -/

/-- The characters of the alphabet in the order of R25, as they are written. -/
def alphabetChars : List Char :=
  "ABCDEFGHIJKLMNOPQRSTUVWXYZ".toList ++ "abcdefghijklmnopqrstuvwxyz".toList ++ "0123456789+/".toList

/-- Characters with a code: the alphabet (R25), the pad character (R27), and the labels of K3 that R91, R135 and the
test vectors write in commands (log entry 16). -/
def charCodes : List (Char × Byte) :=
  alphabetChars.zip ALPHA ++ [('=', PADCHAR)] ++
    [('-', 0x2D#8), ('_', 0x5F#8), ('@', 0x40#8), ('[', 0x5B#8), (':', 0x3A#8), (' ', 0x20#8)]

/-- The code of a written character. -/
def charCode (ch : Char) : Option Byte := charCodes.lookup ch

/-- The code of each character of a string, where all have one. -/
def charsCode : List Char → Option (List Byte)
  | []        => some []
  | ch :: chs =>
    match charCode ch, charsCode chs with
    | some c, some cs => some (c :: cs)
    | _, _            => none

/-- The value of a digit in a base up to 16. -/
def digitValue (base : Nat) (ch : Char) : Option Nat :=
  let n := ch.toNat
  let v := if 48 ≤ n ∧ n ≤ 57 then n - 48
           else if 65 ≤ n ∧ n ≤ 70 then n - 55
           else if 97 ≤ n ∧ n ≤ 102 then n - 87 else 16
  if v < base then some v else none

/-- The number that digits write in a base, continued from `acc`. -/
def digitsValue (base : Nat) : Nat → List Char → Option Nat
  | acc, []        => some acc
  | acc, ch :: chs =>
    match digitValue base ch with
    | some v => digitsValue base (acc * base + v) chs
    | none   => none

/-- White space between the parts of a line. -/
def isBlank (ch : Char) : Bool := ch == ' ' || ch == '\t'

/-- A piece of text without the white space around it. -/
def trimBlanks (cs : List Char) : List Char :=
  ((cs.dropWhile isBlank).reverse.dropWhile isBlank).reverse

/-- One operand: a quoted character, a string, a `0x` number or a decimal number (R72). -/
def readOperand (cs : List Char) : Option AsmOperand :=
  match trimBlanks cs with
  | []                        => none
  | ['\'', ch, '\'']          => (charCode ch).map .chr
  | '"' :: rest               =>
    match rest.reverse with
    | '"' :: body => (charsCode body.reverse).map .text
    | _           => none
  | '0' :: 'x' :: d :: ds     => (digitsValue 16 0 (d :: ds)).map .num
  | d :: ds                   => (digitsValue 10 0 (d :: ds)).map .num

/-- The pieces of a text between commas. -/
def splitCommas : List Char → List (List Char)
  | []         => [[]]
  | ',' :: chs => [] :: splitCommas chs
  | ch :: chs  =>
    match splitCommas chs with
    | []        => [[ch]]
    | p :: rest => (ch :: p) :: rest

/-- All operands, where each reads. -/
def readOperands : List (List Char) → Option (List AsmOperand)
  | []      => some []
  | p :: ps =>
    match readOperand p, readOperands ps with
    | some x, some xs => some (x :: xs)
    | _, _            => none

/-- The mnemonics as they are written (R65). -/
def readMnemonic (cs : List Char) : Option Mnemonic :=
  [("XTR6".toList, Mnemonic.XTR6), ("PCK6".toList, .PCK6), ("ALUT".toList, .ALUT),
   ("RLUT".toList, .RLUT), ("ENC3".toList, .ENC3), ("DEC4".toList, .DEC4)].lookup cs

/-- One line of R72's notation as a command: a `;` begins a comment, the mnemonic ends at the first blank. -/
def readLine (line : String) : Option Instr :=
  let body := trimBlanks (line.toList.takeWhile (· != ';'))
  match readMnemonic (body.takeWhile (fun ch => !isBlank ch)),
        readOperands (splitCommas (body.dropWhile (fun ch => !isBlank ch))) with
  | some m, some xs => assemble m xs
  | _, _            => none

/-! ## Writing a response -/

/-- A response as R72 writes it: `-> OK` with the payload's fields in order, DEC4's count before them, or the name of
the error. -/
inductive Written
  | ok (fields : List Nat)
  | okCount (count : Nat) (fields : List Nat)
  | error (name : String)
deriving DecidableEq, Repr

/-- The name of a status (R190). -/
def Status.name : Status → String
  | .ok               => "OK"
  | .invalidLength    => "InvalidLength"
  | .invalidCharacter => "InvalidCharacter"
  | .misplacedPadding => "MisplacedPadding"
  | .illegalCommand   => "IllegalCommand"

/-- The fields RLUT's OK response is written with: the value alone for a character of the alphabet, as R91 writes its
example; for the pad character the value and then `ispad`. R72 does not say whether and in which place `ispad` is written:
DESIGN CHOICE (log entry 19). -/
def lookupFields (w : Payload) : List Nat :=
  if w.extractLsb' 8 1 = 1#1 then [(w.extractLsb' 0 6).toNat, 1] else [(w.extractLsb' 0 6).toNat]

/-- The fields of an OK payload by the command it answers, the lanes in the order of R64 (R72). -/
def payloadFields (m : Mnemonic) (w : Payload) : List Nat :=
  match m with
  | .XTR6 => [(lane 0 w).toNat, (lane 1 w).toNat, (lane 2 w).toNat, (lane 3 w).toNat]
  | .PCK6 => [(w.extractLsb' 0 24).toNat]
  | .ALUT => [(lane 3 w).toNat]
  | .RLUT => lookupFields w
  | .ENC3 => [(lane 0 w).toNat, (lane 1 w).toNat, (lane 2 w).toNat, (lane 3 w).toNat]
  | .DEC4 => [(lane 1 w).toNat, (lane 2 w).toNat, (lane 3 w).toNat]

/-- The response to a command as R72 writes it. -/
def writeResponse (m : Mnemonic) (x : Response) : Written :=
  match x.status with
  | .ok =>
    match m with
    | .DEC4 => .okCount x.count.toNat (payloadFields .DEC4 x.payload)
    | _     => .ok (payloadFields m x.payload)
  | st => .error st.name

end Sys2Proof.Machine
end

