-- ==== Sys2Proof/Machine/Message.lean ====
section
/-! DEFINITION. The host's message procedures ENCODE and DECODE (spec/43_message_procedures.md), the two
pseudo-instructions of R73: what commands they issue and what they make of the responses. They run on the machine of
`step` through `issue`; nothing here is state or logic of the block (log entry 11). -/

namespace Sys2Proof.Machine

/-- `issue(REQ)` "gives one request word to the block and returns its response word" (spec/00_scope.md section 4.3). A
step always answers (log entry 12), so the last arm is never reached. -/
def issue (r : Request) : ResponseWord :=
  match step (State.reset.give r) with
  | .next s    => s.responses.getLastD (errorResponse .illegalCommand).toWord
  | .fault f   => nomatch f
  | .refused _ => (errorResponse .illegalCommand).toWord

/-- How a procedure ends: `return Ok(q)` or `return Err(status)` (spec/00_scope.md section 4.3). -/
inductive ProcResult
  /-- `Ok(q)`: the whole result. -/
  | ok (q : List Byte)
  /-- `Err(status)`: exactly one status and no bytes (R175). -/
  | err (st : Status)
deriving DecidableEq, Repr

/-! ## ENCODE -/

/-- `pad = (3 - len % 3) % 3` (R161). -/
def padCount (len : Nat) : Nat := (3 - len % 3) % 3

/-- The working copy `msg ++ [0] * pad` (R162). -/
def workingCopy (msg : List Byte) : List Byte := msg ++ List.replicate (padCount msg.length) FILL

/-- Consecutive non-overlapping groups of three bytes from index 0 (R46, R162). -/
def groups3 : List Byte → List Bytes3
  | b0 :: b1 :: b2 :: rest => ⟨b0, b1, b2⟩ :: groups3 rest
  | _ => []

/-- The ENC3 commands of the groups in order: the last one carries the message's pad count, the others 0 (R163). -/
def encodeCommands (pad : Nat) : List Bytes3 → List Instr
  | []          => []
  | [g]         => [.enc3 (BitVec.ofNat 2 pad) g.o0 g.o1 g.o2]
  | g :: g' :: gs => .enc3 0#2 g.o0 g.o1 g.o2 :: encodeCommands pad (g' :: gs)

/-- The request words ENCODE issues, in group order (R163). -/
def encodeRequests (msg : List Byte) : List Request :=
  (encodeCommands (padCount msg.length) (groups3 (workingCopy msg))).map encode

/-- `[lane_0, lane_1, lane_2, lane_3]` of a response payload (R163). -/
def lanesOf (w : Payload) : List Byte := [lane 0 w, lane 1 w, lane 2 w, lane 3 w]

/-- The text of ENC3 responses taken in group order (R163). -/
def assembleText (ws : List ResponseWord) : List Byte := ws.flatMap fun w => lanesOf (rspPayload w)

/-- ENCODE (R163). The `assert RSP.status = OK` is "a fact the rules guarantee", not a check. -/
def encodeMsg (msg : List Byte) : ProcResult := .ok (assembleText ((encodeRequests msg).map issue))

/-! ## DECODE -/

/-- Consecutive non-overlapping groups of four characters from index 0 (R46). -/
def groups4 : List Byte → List Chars4
  | c0 :: c1 :: c2 :: c3 :: rest => ⟨c0, c1, c2, c3⟩ :: groups4 rest
  | _ => []

/-- One DEC4 for each group of four characters, in group order (R173). -/
def decodeCommands (gs : List Chars4) : List Instr := gs.map fun g => .dec4 g.c0 g.c1 g.c2 g.c3

/-- The request words DECODE issues: none for a length that is not a multiple of 4 (R171), else one for each group, in
group order (R173). -/
def decodeRequests (txt : List Byte) : List Request :=
  if txt.length % 4 ≠ 0 then [] else (decodeCommands (groups4 txt)).map encode

/-- DECODE's `seen` (status codes met, a set: no code twice) and `msg` (R173). -/
structure DecodeAcc where
  seen : List (BitVec 3)
  msg  : List Byte
deriving DecidableEq, Repr

/-- `seen + {status}` (R173). -/
def noteStatus (k : BitVec 3) (seen : List (BitVec 3)) : List (BitVec 3) :=
  if k ∈ seen then seen else seen ++ [k]

/-- `[lane_1, lane_2, lane_3][0..count)`: the bytes a DEC4 response keeps (R173, R224). -/
def keptBytes (w : ResponseWord) : List Byte :=
  [lane 1 (rspPayload w), lane 2 (rspPayload w), lane 3 (rspPayload w)].take (countField w).toNat

/-- What DECODE does with one response; `last` says that its group is the last (`k = G-1`) (R173, R174). -/
def takeResponse (last : Bool) (w : ResponseWord) (acc : DecodeAcc) : DecodeAcc :=
  if statusField w ≠ Status.ok.code then { acc with seen := noteStatus (statusField w) acc.seen }
  else if last = false ∧ countField w ≠ 3#2 then
    { acc with seen := noteStatus Status.misplacedPadding.code acc.seen }
  else { acc with msg := acc.msg ++ keptBytes w }

/-- The loop of DECODE over the responses in group order (R173). -/
def takeResponses : List ResponseWord → DecodeAcc → DecodeAcc
  | [],           acc => acc
  | [w],          acc => takeResponse true w acc
  | w :: w' :: ws, acc => takeResponses (w' :: ws) (takeResponse false w acc)

/-- The end of DECODE: one status, chosen by kind and not by position, or the whole message (R173, R175). -/
def decodeEnd (acc : DecodeAcc) : ProcResult :=
  if Status.invalidCharacter.code ∈ acc.seen then .err .invalidCharacter
  else if Status.misplacedPadding.code ∈ acc.seen then .err .misplacedPadding
  else .ok acc.msg

/-- The result of DEC4 responses taken in group order (R173). -/
def assembleMessage (ws : List ResponseWord) : ProcResult := decodeEnd (takeResponses ws ⟨[], []⟩)

/-- DECODE (R173): `InvalidLength` before any command is issued (R171), else what the responses to its DEC4 commands
give. -/
def decodeMsg (txt : List Byte) : ProcResult :=
  if txt.length % 4 ≠ 0 then .err .invalidLength
  else assembleMessage ((decodeRequests txt).map issue)

/-! ## The source's own wording of the two procedures (R164, R172), and the domain of DECODE (R170) -/

/-- The four characters of a group, as a list. -/
def Chars4.toList (c : Chars4) : List Byte := [c.c0, c.c1, c.c2, c.c3]

/-- The three bytes of a group, as a list. -/
def Bytes3.toList (b : Bytes3) : List Byte := [b.o0, b.o1, b.o2]

/-- The source's ENCODE: every group mapped through the alphabet, then the last `pad` characters of the whole output
replaced once by the pad character (R164, `90_conflicts.md` C8). -/
def encodeOnce (msg : List Byte) : List Byte :=
  let out := (groups3 (workingCopy msg)).flatMap fun g => (alutAll (xtr6 (cat3 g))).toList
  out.take (out.length - padCount msg.length) ++ List.replicate (padCount msg.length) PADCHAR

/-- "number of trailing pad characters in the input" (R172). -/
def trailingPads (txt : List Byte) : Nat := (txt.reverse.takeWhile (· == PADCHAR)).length

/-- The source's DECODE on well-formed text: every character looked up, every group packed and cut, then the last
`pad` bytes of the whole output dropped once (R172, `90_conflicts.md` C8). -/
def decodeOnce (txt : List Byte) : List Byte :=
  let out := (groups4 txt).flatMap fun g =>
    (ext8 (pck6 ⟨(rlut g.c0).sextet, (rlut g.c1).sextet, (rlut g.c2).sextet, (rlut g.c3).sextet⟩)).toList
  out.take (out.length - trailingPads txt)

/-- A well-formed text (R170): length a multiple of 4, every code in the alphabet or the pad character, "the pad
characters are the last 0, 1 or 2 characters of the text and nothing else". -/
def wellFormedText (txt : List Byte) : Bool :=
  txt.length % 4 == 0 && decide (trailingPads txt ≤ 2) &&
    (txt.take (txt.length - trailingPads txt)).all (fun c => RCLASS c == .alphaChar)

end Sys2Proof.Machine
end

