-- ==== Sys2Proof/Safety.lean ====
section
/-! DEFINITION. What the claims call a legal response, the invariant of the interface, and the host duties of
spec/70_reset_and_hazards.md R224. -/

namespace Sys2Proof.Machine

/-- A response word the block can give: an error word of R75 with a status of the block's own (InvalidLength is
DECODE's alone, R191; codes 5 to 7 do not exist, R190), or an OK word whose lanes beyond the count are zero when it has a
count (R64, R134). -/
def legalResponse (w : ResponseWord) : Bool :=
  w == (errorResponse .invalidCharacter).toWord ||
  w == (errorResponse .misplacedPadding).toWord ||
  w == (errorResponse .illegalCommand).toWord ||
  (statusField w == 0#3 &&
    (countField w == 0#2 ||
      (lane 0 (rspPayload w) == 0#8 &&
        (countField w == 3#2 || lane 3 (rspPayload w) == 0#8) &&
        (countField w != 1#2 || lane 2 (rspPayload w) == 0#8))))

/-- The invariant of the interface: every delivered response word is one the block can give. -/
def State.Inv (s : State) : Prop := ∀ w ∈ s.responses, legalResponse w = true

/-- A run of the machine is safe as long as every step answers a next state. -/
def Safe (o : Host.Outcome State Fault Refusal) : Prop := ∃ t, o = .next t

/-- The pad field ENCODE gives group `k` of a message (R163, R224). -/
def groupPad (msg : List Byte) (k : Nat) : Nat :=
  if k + 1 = (msg.length + 2) / 3 then padCount msg.length else 0

/-- The host's duties in ENCODE as to what it issues (R224): one ENC3 for each group of 3 from index 0, pad 0 for every
group but the last and the message's pad count for the last, and the real bytes of the group in their lanes. The lanes
beyond the message's end may hold anything (R163). -/
def EncodeDuties (msg : List Byte) (rs : List Request) : Prop :=
  rs.length = (msg.length + 2) / 3 ∧
  ∀ k, k < rs.length → ∃ b0 b1 b2 : Byte,
    rs[k]? = some (encode (.enc3 (BitVec.ofNat 2 (groupPad msg k)) b0 b1 b2)) ∧
    ∀ j, j < 3 - groupPad msg k → [b0, b1, b2][j]? = msg[3 * k + j]?

end Sys2Proof.Machine
end

