-- ==== Sys2Proof/Certificates/Slice0/SpecForms.lean ====
section
/-! DEFINITION. The spec's formulas on unbounded natural numbers, as its own notation has them (spec/00_scope.md section
4: values are non-negative integers, `<<` loses no bits). The statements are written with these and not with the model's
bit-vector operations, so that each says what the spec says and not what the model does. -/

namespace Sys2Proof.Spec

open Sys2Proof.Machine

/-- `RSP = status << 34 | count << 32 | payload` (R63; the three terms occupy disjoint bits). -/
def rsp (status count payload : Nat) : ResponseWord :=
  BitVec.ofNat 37 (status * 2 ^ 34 + count * 2 ^ 32 + payload)

/-- `lanes(x0, x1, x2, x3)` of four bytes (spec/00_scope.md section 4.2). -/
def lanes4 (x0 x1 x2 x3 : Nat) : Nat := x0 * 2 ^ 24 + x1 * 2 ^ 16 + x2 * 2 ^ 8 + x3

/-- The state in which a command that was evaluated in `s` has been answered with `w`: nothing else changes. -/
def answered (s : State) (w : ResponseWord) : State := { s with responses := s.responses ++ [w] }

/-- A payload bit that R62 and R67 mark reserved is 1, opcode by opcode; DEC4 (5) has no reserved bits. -/
abbrev reservedBitSet (r : Request) : Prop :=
  (r.extractLsb' 32 3 = 0#3 ∧ r.extractLsb' 24 8 ≠ 0#8) ∨
  (r.extractLsb' 32 3 = 1#3 ∧ (r.extractLsb' 30 2 ≠ 0#2 ∨ r.extractLsb' 22 2 ≠ 0#2 ∨
    r.extractLsb' 14 2 ≠ 0#2 ∨ r.extractLsb' 6 2 ≠ 0#2)) ∨
  (r.extractLsb' 32 3 = 2#3 ∧ r.extractLsb' 6 26 ≠ 0#26) ∨
  (r.extractLsb' 32 3 = 3#3 ∧ r.extractLsb' 8 24 ≠ 0#24) ∨
  (r.extractLsb' 32 3 = 4#3 ∧ r.extractLsb' 26 6 ≠ 0#6)

/-- ENC3 with `pad = 3` (R68). -/
abbrev reservedPadSet (r : Request) : Prop := r.extractLsb' 32 3 = 4#3 ∧ r.extractLsb' 24 2 = 3#2

/-- The closed form of `ALPHA[i]` (R25). -/
def alphaCode (i : Nat) : Nat :=
  if i ≤ 25 then 0x41 + i
  else if i ≤ 51 then 0x61 + (i - 26)
  else if i ≤ 61 then 0x30 + (i - 52)
  else if i = 62 then 0x2B
  else 0x2F

/-- The value of a character code of the alphabet, by the ranges of R26; none for any other code. -/
def charValue (c : Nat) : Option Nat :=
  if 0x41 ≤ c ∧ c ≤ 0x5A then some (c - 0x41)
  else if 0x61 ≤ c ∧ c ≤ 0x7A then some (c - 0x61 + 26)
  else if 0x30 ≤ c ∧ c ≤ 0x39 then some (c - 0x30 + 52)
  else if c = 0x2B then some 62
  else if c = 0x2F then some 63
  else none

/-- A code that is "neither one of the 64 alphabet characters nor `=`" (R192). -/
abbrev invalidCode (c : Nat) : Prop := charValue c = none ∧ c ≠ 0x3D

/-- The block of three bytes `(b0 << 16) | (b1 << 8) | b2` (R110; disjoint bits, so the OR is a sum). -/
def blockOfBytes (b0 b1 b2 : Nat) : Nat := b0 * 2 ^ 16 + b1 * 2 ^ 8 + b2

/-- The block of four sextets `(v0 << 18) | (v1 << 12) | (v2 << 6) | v3` (R112; disjoint bits). -/
def blockOfSextets (v0 v1 v2 v3 : Nat) : Nat := v0 * 2 ^ 18 + v1 * 2 ^ 12 + v2 * 2 ^ 6 + v3

/-- The sextet `i` of a block, most significant first: `(blk >> (18 - 6*i)) & 0x3F` (R111). -/
def sextetAt (blk i : Nat) : Nat := (blk >>> (18 - 6 * i)) &&& 0x3F

/-- The byte `i` of a block, most significant first: `(blk >> (16 - 8*i)) & 0xFF` (R113). -/
def byteAt (blk i : Nat) : Nat := (blk >>> (16 - 8 * i)) &&& 0xFF

/-- The block ENC3 encodes: the last `pad` bytes count as 0 whatever they hold (R130). -/
def filledBlock (pad b0 b1 b2 : Nat) : Nat :=
  blockOfBytes b0 (if pad ≤ 1 then b1 else 0) (if pad = 0 then b2 else 0)

/-- The character `i` of an encoded group: `=` for the last `pad`, else the alphabet's (R131, R132). -/
def groupChar (pad blk i : Nat) : Nat := if 4 - pad ≤ i then 0x3D else alphaCode (sextetAt blk i)

/-- The byte `i` of a decoded group of `count` bytes: zero beyond the count (R134, R135). -/
def groupByte (count blk i : Nat) : Nat := if i < count then byteAt blk i else 0

/-! ## What a host reads from the small commands (spec/95_test_vectors.md P5) -/

/-- The character of ALUT's response, asked with a lane of an earlier response as its operand. -/
def alutAnswer (x : Byte) : Byte := lane 3 (rspPayload (issue (requestWord 2#3 (x.setWidth 32))))

/-- RLUT's response to a character is an error. -/
def rlutRefuses (c : Byte) : Bool := statusField (issue (encode (.rlut c))) != 0#3

/-- The pad flag in RLUT's response to a character. -/
def rlutFlag (c : Byte) : Bool := (rspPayload (issue (encode (.rlut c)))).getLsbD 8

/-- The value in RLUT's response to a character, as a lane. -/
def rlutValue (c : Byte) : Byte := lane 3 (rspPayload (issue (encode (.rlut c))))

/-- The block in PCK6's response to the values of four characters. -/
def rlutPacked (c0 c1 c2 c3 : Byte) : Nat :=
  (rspPayload (issue (requestWord 1#3 (lanes (rlutValue c0) (rlutValue c1) (rlutValue c2) (rlutValue c3))))).toNat

end Sys2Proof.Spec
end

