-- ==== Sys2Proof/Certificates/Slice0/Obligations.lean ====
section
/-! DEFINITION. The statements for the provers. Each docstring names the rule of spec/ it formalises. -/

open Sys2Proof Sys2Proof.Machine Sys2Proof.Spec

/-! ## Encoding (spec/30_encoding.md) -/

/-- Decode and encode agree: no bit of an encoding is dropped (R62, R65). -/
def Obligations.DecodeInvertsEncode : Prop :=
  ∀ i : Instr, i.wellFormed = true → decode (encode i) = .ok i

/-- Every word that decodes is the one encoding of its command, and the command is well-formed (R65 to R69). -/
def Obligations.EncodeInvertsDecode : Prop :=
  ∀ (r : Request) (i : Instr), decode r = .ok i → encode i = r ∧ i.wellFormed = true

/-- The decoder accepts exactly the words of the rows of spec/opcode_table.json, as the row's command, and no word is in
two rows. -/
def Obligations.DecodeAgreesWithOpcodeTable : Prop :=
  (∀ r : Request, (∃ row ∈ opTable, row.covers r = true) → ∃ i, decode r = .ok i) ∧
  (∀ (r : Request) (i : Instr), decode r = .ok i →
    ∀ row ∈ opTable, row.covers r = true ↔ row.mnemonic = i.mnemonic) ∧
  opTable.map (·.mnemonic) = [.XTR6, .PCK6, .ALUT, .RLUT, .ENC3, .DEC4]

/-- Words written out in spec/40 to spec/42 decode to the commands they stand for. -/
def Obligations.SpecExampleWordsDecode : Prop :=
  decode 0x0004D616E#35 = .ok (.xtr6 0x4D616E#24) ∧
  decode 0x11316052E#35 = .ok (.pck6 19#6 22#6 5#6 46#6) ∧
  decode 0x200000013#35 = .ok (.alut 19#6) ∧
  decode 0x300000075#35 = .ok (.rlut 0x75#8) ∧
  decode 0x4014D6100#35 = .ok (.enc3 1#2 0x4D#8 0x61#8 0x00#8) ∧
  decode 0x55457453D#35 = .ok (.dec4 0x54#8 0x57#8 0x45#8 0x3D#8)

/-- R74: decoding is total and unambiguous. Every request word is of exactly one of three kinds, tested in this order:
`op` 6 or 7; a reserved bit of the format is 1, or ENC3 with `pad = 3`; or a command that is executed and answers `OK` or,
for RLUT and DEC4 only, `InvalidCharacter`, and for DEC4 only, `MisplacedPadding`. -/
def Obligations.EveryRequestWordHasOneOfThreeOutcomes : Prop :=
  ∀ (s : State) (r : Request) (rest : List Request), s.pending = r :: rest →
    (6 ≤ (r.extractLsb' 32 3).toNat →
      step s = .next (answered { s with pending := rest } (rsp 4 0 0))) ∧
    ((r.extractLsb' 32 3).toNat < 6 → (reservedBitSet r ∨ reservedPadSet r) →
      step s = .next (answered { s with pending := rest } (rsp 4 0 0))) ∧
    ((r.extractLsb' 32 3).toNat < 6 → ¬ reservedBitSet r → ¬ reservedPadSet r →
      ∃ (i : Instr) (w : ResponseWord), decode r = .ok i ∧
        step s = exec i { s with pending := rest } ∧
        step s = .next (answered { s with pending := rest } w) ∧
        (statusField w = 0#3 ∨
          (statusField w = 2#3 ∧ (r.extractLsb' 32 3 = 3#3 ∨ r.extractLsb' 32 3 = 5#3)) ∨
          (statusField w = 3#3 ∧ r.extractLsb' 32 3 = 5#3)))

/-- R66, R67, R68: opcodes 6 and 7, "whatever its payload", any reserved payload bit of opcodes 0 to 4 that is 1, and ENC3
with `pad = 3` answer `IllegalCommand`; DEC4 has no reserved bits. -/
def Obligations.ReservedEncodingsAnswerIllegalCommand : Prop :=
  (∀ (s : State) (r : Request) (rest : List Request), s.pending = r :: rest →
    (r.extractLsb' 32 3 = 6#3 ∨ r.extractLsb' 32 3 = 7#3 ∨ reservedBitSet r ∨ reservedPadSet r) →
      step s = .next { pending := rest, responses := s.responses ++ [0x1000000000#37] }) ∧
  (∀ r : Request, r.extractLsb' 32 3 = 5#3 → ∃ i, decode r = .ok i) ∧
  (∀ (b0 b1 b2 : Byte) (s : State), exec (.enc3 3#2 b0 b1 b2) s = .next (answered s (rsp 4 0 0)))

/-- What the assembler of R72 accepts is a legal command of the mnemonic, so a host that builds its requests with it
never sees `IllegalCommand` (R194); an operand outside its range is refused; and every legal command can be written. -/
def Obligations.AssembledCommandsAreLegal : Prop :=
  (∀ (m : Mnemonic) (xs : List AsmOperand) (i : Instr), assemble m xs = some i →
    i.mnemonic = m ∧ decode (encode i) = .ok i ∧ statusField (issue (encode i)) ≠ 4#3) ∧
  (∀ n : Nat, 2 ^ 24 ≤ n → assemble .XTR6 [.num n] = none) ∧
  (∀ n : Nat, 64 ≤ n → assemble .ALUT [.num n] = none) ∧
  (∀ n : Nat, 256 ≤ n → assemble .RLUT [.num n] = none) ∧
  (∀ x y z t n : Nat, 64 ≤ n → n ∈ [x, y, z, t] →
    assemble .PCK6 [.num x, .num y, .num z, .num t] = none) ∧
  (∀ p x y z : Nat, 3 ≤ p ∨ 256 ≤ x ∨ 256 ≤ y ∨ 256 ≤ z →
    assemble .ENC3 [.num p, .num x, .num y, .num z] = none) ∧
  (∀ x y z t n : Nat, 256 ≤ n → n ∈ [x, y, z, t] →
    assemble .DEC4 [.num x, .num y, .num z, .num t] = none) ∧
  (∀ i : Instr, i.wellFormed = true → ∃ xs, assemble i.mnemonic xs = some i)

/-! ## The step, the interface and its invariant (spec/10_state.md, spec/20_memory.md, spec/60_exceptions.md) -/

/-- A step takes the next request word and runs the command it decodes to; with no request word it changes nothing (the
second is the model's choice, log entry 3). -/
def Obligations.StepRunsDecodedCommand : Prop :=
  (∀ (s : State) (r : Request) (rest : List Request) (i : Instr),
    s.pending = r :: rest → decode r = .ok i → step s = exec i { s with pending := rest }) ∧
  (∀ s : State, s.pending = [] → step s = .next s)

/-- The frame of all six commands: a command changes nothing of the interface but adds its one response at the end. -/
def Obligations.CommandsOnlyAddTheirResponse : Prop :=
  ∀ (i : Instr) (s t : State), exec i s = .next t →
    t.pending = s.pending ∧ ∃ w : ResponseWord, t.responses = s.responses ++ [w]

/-- R20: the response is a function of the request word and of nothing else: not of an earlier command, not of what else is
presented or was answered. -/
def Obligations.ResponseIsFunctionOfRequestWord : Prop :=
  ∃ f : Request → ResponseWord, ∀ (s : State) (r : Request) (rest : List Request), s.pending = r :: rest →
    step s = .next { pending := rest, responses := s.responses ++ [f r] }

/-- R75: a response with a status other than `OK` has count 0 and payload 0; the word is `status << 34`. -/
def Obligations.ErrorResponsesCarryOnlyTheStatus : Prop :=
  ∀ (s : State) (r : Request) (rest : List Request), s.pending = r :: rest →
    ∃ w : ResponseWord, step s = .next { pending := rest, responses := s.responses ++ [w] } ∧
      (statusField w ≠ 0#3 →
        countField w = 0#2 ∧ rspPayload w = 0#32 ∧ w.toNat = (statusField w).toNat <<< 34)

/-- The fields of a response word are where R63 puts them, the codes are those of R190, five and no more, and reading a
response back gives its fields. -/
def Obligations.ResponseWordLayout : Prop :=
  (∀ x : Response, x.toWord.toNat = x.status.code.toNat * 2 ^ 34 + x.count.toNat * 2 ^ 32 + x.payload.toNat) ∧
  (∀ x : Response, Response.ofWord x.toWord = some x) ∧
  (∀ w : ResponseWord, 5 ≤ (statusField w).toNat ↔ Response.ofWord w = none) ∧
  Status.ok.code = 0#3 ∧ Status.invalidLength.code = 1#3 ∧ Status.invalidCharacter.code = 2#3 ∧
  Status.misplacedPadding.code = 3#3 ∧ Status.illegalCommand.code = 4#3

/-- R191: no request word makes the block answer status 1; DECODE reports it, exactly for a length that is not a multiple
of 4. -/
def Obligations.InvalidLengthComesFromDecodeOnly : Prop :=
  (∀ (s t : State) (r : Request) (rest : List Request), s.pending = r :: rest → step s = .next t →
    ∃ w : ResponseWord, t.responses = s.responses ++ [w] ∧ statusField w ≠ 1#3) ∧
  (∀ txt : List Byte, decodeMsg txt = .err .invalidLength ↔ txt.length % 4 ≠ 0)

/-- Every step keeps the invariant: only response words that the block can give are ever delivered (R64, R75, R190,
R191). -/
def Obligations.StepKeepsResponsesLegal : Prop :=
  ∀ s t : State, s.Inv → step s = .next t → t.Inv

/-- The invariant holds at reset. -/
def Obligations.ResetResponsesLegal : Prop := State.reset.Inv

/-- What reset leaves: no request and no response at the interface (the model's choice, log entry 2), and the tables and
constants of R33; a reset between two commands changes nothing (R220). -/
def Obligations.ResetLeavesTheConstants : Prop :=
  State.reset.pending = [] ∧ State.reset.responses = [] ∧ (∀ s : State, step (resetInput s) = step s) ∧
  PADCHAR = 0x3D#8 ∧ FILL = 0x00#8 ∧ ALPHA.length = 64

/-- R50: any commands presented one after the other are each answered as they would be alone, in order, whatever was
answered before. -/
def Obligations.QueueAnswersEachRequestAsAlone : Prop :=
  ∀ (rs rest : List Request) (s : State), s.pending = rs ++ rest →
    Host.Core.run Sys2Proof.core rs.length s =
      .next { pending := rest, responses := s.responses ++ rs.map issue }

/-- A host may issue its commands in any order `σ` and put the responses back by index: each is the one its request gets
alone (R50, R163, R173). -/
def Obligations.AnyIssueOrderGivesTheSameResponses : Prop :=
  ∀ (rs : List Request) (σ : List Nat) (s : State), σ.Perm (List.range rs.length) →
    s.pending = σ.filterMap (fun k => rs[k]?) →
    ∃ ws : List ResponseWord,
      Host.Core.run Sys2Proof.core rs.length s = .next { pending := [], responses := s.responses ++ ws } ∧
      ∀ (k : Nat) (h : k < rs.length), (σ.zip ws).lookup k = some (issue rs[k])

/-- Two procedures whose commands are interleaved in any way on the block each get the responses they would get alone
(R182, R226). -/
def Obligations.InterleavedProceduresDoNotInterfere : Prop :=
  ∀ (qs : List (Bool × Request)) (s : State), s.pending = qs.map Prod.snd →
    ∃ ws : List ResponseWord,
      Host.Core.run Sys2Proof.core qs.length s = .next { pending := [], responses := s.responses ++ ws } ∧
      ∀ p : Bool, ((qs.zip ws).filter (fun x => x.1.1 == p)).map Prod.snd =
        (qs.filter (fun q => q.1 == p)).map (fun q => issue q.2)

/-! ## Tables (spec/10_state.md R25, R26, spec/40_alphabet_lookup.md) -/

/-- R25: the alphabet in closed form; the 64 codes are distinct and below 0x80. -/
def Obligations.AlphabetTable : Prop :=
  ALPHA.length = 64 ∧
  (∀ i : Sextet, ALPHA[i.toNat]? = some (BitVec.ofNat 8 (alphaCode i.toNat))) ∧
  ALPHA.Nodup ∧ (∀ c ∈ ALPHA, c.toNat < 0x80)

/-- R26: the inverse table by its ranges, with 64, 1 and 191 entries of the three classes, and its defining law. -/
def Obligations.InverseAlphabetTable : Prop :=
  (∀ c : Byte, ∀ v : Nat, charValue c.toNat = some v → RCLASS c = .alphaChar ∧ (RVAL c).toNat = v) ∧
  (RCLASS 0x3D#8 = .padChar ∧ RVAL 0x3D#8 = 0#6) ∧
  (∀ c : Byte, invalidCode c.toNat → RCLASS c = .invalid ∧ RVAL c = 0#6) ∧
  ((List.range 256).countP (fun n => RCLASS (BitVec.ofNat 8 n) == .alphaChar) = 64) ∧
  ((List.range 256).countP (fun n => RCLASS (BitVec.ofNat 8 n) == .padChar) = 1) ∧
  ((List.range 256).countP (fun n => RCLASS (BitVec.ofNat 8 n) == .invalid) = 191) ∧
  (∀ i : Sextet, RCLASS (alut i) = .alphaChar ∧ RVAL (alut i) = i) ∧
  (∀ c : Byte, RCLASS c = .alphaChar → alut (RVAL c) = c)

/-- R92, R94: `alut` is `ALPHA[s]`, injective, and never gives the pad character or a code of 0x80 or above; the two lookups
are inverse on the alphabet. -/
def Obligations.LookupsAreInverse : Prop :=
  (∀ s : Sextet, some (alut s) = ALPHA[s.toNat]?) ∧
  (∀ s t : Sextet, alut s = alut t → s = t) ∧ (∀ s : Sextet, alut s ≠ 0x3D#8 ∧ (alut s).toNat < 0x80) ∧
  (∀ s : Sextet, rlut (alut s) = .value s) ∧ (∀ (c : Byte) (v : Sextet), rlut c = .value v → alut v = c)

/-- ALUT answers `OK` with the character code of its sextet, in every state (R90). -/
def Obligations.AlutAnswersTheCharacter : Prop :=
  ∀ (v : Sextet) (s : State), exec (.alut v) s = .next (answered s (rsp 0 0 (alphaCode v.toNat)))

/-- R90: ALUT as a request word: encoding, effect, error, corner cases and example. -/
def Obligations.AlutCommand : Prop :=
  (∀ (s : State) (r : Request) (rest : List Request), s.pending = r :: rest → r.extractLsb' 32 3 = 2#3 →
    step s = .next (answered { s with pending := rest }
      (if r.extractLsb' 6 26 = 0#26 then rsp 0 0 (alphaCode (r.extractLsb' 0 6).toNat) else rsp 4 0 0))) ∧
  [0x200000000#35, 0x200000019#35, 0x20000001A#35, 0x200000033#35, 0x200000034#35, 0x20000003D#35, 0x20000003E#35,
    0x20000003F#35, 0x200000040#35, 0x200000013#35].map issue =
  [0x41#37, 0x5A#37, 0x61#37, 0x7A#37, 0x30#37, 0x39#37, 0x2B#37, 0x2F#37, 0x1000000000#37, 0x54#37]

/-- RLUT answers `OK` with the value of a character of the alphabet, `OK` with value 0 and `ispad` (bit 8) for the pad
character, and `InvalidCharacter` for every other code (R91, R93, R192). -/
def Obligations.RlutAnswersByClass : Prop :=
  (∀ (c : Byte) (v : Nat) (s : State), charValue c.toNat = some v →
    exec (.rlut c) s = .next (answered s (rsp 0 0 v))) ∧
  (∀ s : State, exec (.rlut 0x3D#8) s = .next (answered s (rsp 0 0 0x100))) ∧
  (∀ (c : Byte) (s : State), invalidCode c.toNat → exec (.rlut c) s = .next (answered s (rsp 2 0 0)))

/-- R91: RLUT as a request word: encoding, effect, errors, corner cases and example. -/
def Obligations.RlutCommand : Prop :=
  (∀ (s : State) (r : Request) (rest : List Request), s.pending = r :: rest → r.extractLsb' 32 3 = 3#3 →
    step s = .next (answered { s with pending := rest }
      (if r.extractLsb' 8 24 ≠ 0#24 then rsp 4 0 0
       else match charValue (r.extractLsb' 0 8).toNat with
         | some v => rsp 0 0 v
         | none   => if r.extractLsb' 0 8 = 0x3D#8 then rsp 0 0 0x100 else rsp 2 0 0))) ∧
  [0x300000041#35, 0x30000003D#35, 0x300000030#35, 0x300000061#35, 0x300000075#35, 0x300000141#35].map issue =
    [0x00#37, 0x100#37, 52#37, 26#37, 0x2E#37, 0x1000000000#37] ∧
  (∀ c ∈ [0x40, 0x5B, 0x60, 0x7B, 0x3A, 0x2A, 0x2C, 0x2D, 0x2E, 0x5F, 0x20, 0x0A, 0x0D, 0x09, 0x00],
    issue (BitVec.ofNat 35 (0x300000000 + c)) = 0x0800000000#37) ∧
  (∀ c : Nat, 0x80 ≤ c → c ≤ 0xFF → issue (BitVec.ofNat 35 (0x300000000 + c)) = 0x0800000000#37)

/-! ## The sextet datapath (spec/41_sextet_datapath.md) -/

/-- R110 to R113: the four functions by the spec's shifts, masks and ORs. -/
def Obligations.DatapathFunctionsFollowTheShifts : Prop :=
  (∀ b : Bytes3, (cat3 b).toNat = (b.o0.toNat <<< 16) ||| (b.o1.toNat <<< 8) ||| b.o2.toNat ∧
    (cat3 b).toNat = blockOfBytes b.o0.toNat b.o1.toNat b.o2.toNat ∧ cat3 b = b.o0 ++ b.o1 ++ b.o2) ∧
  (∀ blk : Block, (xtr6 blk).s0.toNat = (blk.toNat >>> 18) &&& 0x3F ∧ (xtr6 blk).s1.toNat = (blk.toNat >>> 12) &&& 0x3F ∧
    (xtr6 blk).s2.toNat = (blk.toNat >>> 6) &&& 0x3F ∧ (xtr6 blk).s3.toNat = (blk.toNat >>> 0) &&& 0x3F ∧
    (blk.toNat >>> 18) < 64) ∧
  (∀ v : Sextets, (pck6 v).toNat =
      (v.s0.toNat <<< 18) ||| (v.s1.toNat <<< 12) ||| (v.s2.toNat <<< 6) ||| v.s3.toNat ∧
    pck6 v = v.s0 ++ v.s1 ++ v.s2 ++ v.s3) ∧
  (∀ blk : Block, (ext8 blk).o0.toNat = (blk.toNat >>> 16) &&& 0xFF ∧ (ext8 blk).o1.toNat = (blk.toNat >>> 8) &&& 0xFF ∧
    (ext8 blk).o2.toNat = (blk.toNat >>> 0) &&& 0xFF)

/-- R44: the same 24 bits as three bytes and as four sextets, bit by bit. -/
def Obligations.MixedWidthViewOfTheBlock : Prop :=
  (∀ b : Bytes3,
    (xtr6 (cat3 b)).s0 = b.o0.extractLsb' 2 6 ∧
    (xtr6 (cat3 b)).s1 = b.o0.extractLsb' 0 2 ++ b.o1.extractLsb' 4 4 ∧
    (xtr6 (cat3 b)).s2 = b.o1.extractLsb' 0 4 ++ b.o2.extractLsb' 6 2 ∧
    (xtr6 (cat3 b)).s3 = b.o2.extractLsb' 0 6) ∧
  (∀ v : Sextets,
    (ext8 (pck6 v)).o0 = v.s0 ++ v.s1.extractLsb' 4 2 ∧
    (ext8 (pck6 v)).o1 = v.s1.extractLsb' 0 4 ++ v.s2.extractLsb' 2 4 ∧
    (ext8 (pck6 v)).o2 = v.s2.extractLsb' 0 2 ++ v.s3)

/-- R116: the functions are inverse in pairs, and the whole chain gives the bytes back. -/
def Obligations.DatapathFunctionsAreInverse : Prop :=
  (∀ v : Sextets, xtr6 (pck6 v) = v) ∧ (∀ blk : Block, pck6 (xtr6 blk) = blk) ∧
  (∀ b : Bytes3, ext8 (cat3 b) = b) ∧ (∀ blk : Block, cat3 (ext8 blk) = blk) ∧
  (∀ b : Bytes3, ext8 (pck6 (xtr6 (cat3 b))) = b)

/-- XTR6 answers `OK` with the four sextets of its block, one per lane, in every state (R114). -/
def Obligations.Xtr6AnswersTheSextets : Prop :=
  ∀ (blk : Block) (s : State), exec (.xtr6 blk) s = .next (answered s (rsp 0 0
    (lanes4 (sextetAt blk.toNat 0) (sextetAt blk.toNat 1) (sextetAt blk.toNat 2) (sextetAt blk.toNat 3))))

/-- PCK6 answers `OK` with the block of its four sextets, in every state (R115). -/
def Obligations.Pck6AnswersTheBlock : Prop :=
  ∀ (v0 v1 v2 v3 : Sextet) (s : State), exec (.pck6 v0 v1 v2 v3) s = .next (answered s (rsp 0 0
    (blockOfSextets v0.toNat v1.toNat v2.toNat v3.toNat)))

/-- R114: XTR6 as a request word: encoding, effect, error, corner cases and example. -/
def Obligations.Xtr6Command : Prop :=
  (∀ (s : State) (r : Request) (rest : List Request), s.pending = r :: rest → r.extractLsb' 32 3 = 0#3 →
    step s = .next (answered { s with pending := rest }
      (if r.extractLsb' 24 8 ≠ 0#8 then rsp 4 0 0
       else rsp 0 0 (lanes4 (sextetAt (r.extractLsb' 0 24).toNat 0) (sextetAt (r.extractLsb' 0 24).toNat 1)
         (sextetAt (r.extractLsb' 0 24).toNat 2) (sextetAt (r.extractLsb' 0 24).toNat 3))))) ∧
  (∀ (b0 b1 b2 : Byte), (b0 ++ b1 ++ b2 : BitVec 24) = cat3 ⟨b0, b1, b2⟩) ∧
  [0x000000000#35, 0x000FFFFFF#35, 0x000FC0000#35, 0x00003F000#35, 0x000000FC0#35, 0x00000003F#35,
    0x0004D616E#35].map issue =
  [0x00#37, 0x3F3F3F3F#37, 0x3F000000#37, 0x003F0000#37, 0x00003F00#37, 0x0000003F#37, 0x1316052E#37]

/-- R115: PCK6 as a request word: encoding, effect, error, corner cases and example. -/
def Obligations.Pck6Command : Prop :=
  (∀ (s : State) (r : Request) (rest : List Request), s.pending = r :: rest → r.extractLsb' 32 3 = 1#3 →
    step s = .next (answered { s with pending := rest }
      (if r.extractLsb' 0 32 &&& 0xC0C0C0C0#32 ≠ 0#32 then rsp 4 0 0
       else rsp 0 0 (blockOfSextets (r.extractLsb' 24 6).toNat (r.extractLsb' 16 6).toNat (r.extractLsb' 8 6).toNat
         (r.extractLsb' 0 6).toNat)))) ∧
  [0x100000000#35, 0x13F3F3F3F#35, 0x101010101#35, 0x140000000#35, 0x100000040#35, 0x11316052E#35].map issue =
  [0x00#37, 0xFFFFFF#37, 0x041041#37, 0x1000000000#37, 0x1000000000#37, 0x4D616E#37]

/-- R117: XTR6 and PCK6 are inverse as commands: the payload of the one's response is a legal payload of the other. -/
def Obligations.Xtr6AndPck6AreInverseCommands : Prop :=
  (∀ blk : Block, issue (requestWord 1#3 (rspPayload (issue (encode (.xtr6 blk))))) = rsp 0 0 blk.toNat) ∧
  (∀ v0 v1 v2 v3 : Sextet,
    issue (requestWord 0#3 (rspPayload (issue (encode (.pck6 v0 v1 v2 v3))))) =
      rsp 0 0 (lanes4 v0.toNat v1.toNat v2.toNat v3.toNat))

/-! ## The group commands (spec/42_group_codec.md) -/

/-- R130, R131, R134: `fill`, `padrep` and `drop` by their three equations each; what `padrep` replaces was always `A`
(0x41); the number of bytes kept is never 0. -/
def Obligations.FillReplaceAndDrop : Prop :=
  (∀ b0 b1 b2 : Byte, fill 0#2 ⟨b0, b1, b2⟩ = ⟨b0, b1, b2⟩ ∧ fill 1#2 ⟨b0, b1, b2⟩ = ⟨b0, b1, 0#8⟩ ∧
    fill 2#2 ⟨b0, b1, b2⟩ = ⟨b0, 0#8, 0#8⟩) ∧
  (∀ o0 o1 o2 : Byte, drop 0#2 ⟨o0, o1, o2⟩ = (3#2, ⟨o0, o1, o2⟩) ∧ drop 1#2 ⟨o0, o1, o2⟩ = (2#2, ⟨o0, o1, 0#8⟩) ∧
    drop 2#2 ⟨o0, o1, o2⟩ = (1#2, ⟨o0, 0#8, 0#8⟩)) ∧
  (∀ c0 c1 c2 c3 : Byte, padrep 0#2 ⟨c0, c1, c2, c3⟩ = ⟨c0, c1, c2, c3⟩ ∧
    padrep 1#2 ⟨c0, c1, c2, c3⟩ = ⟨c0, c1, c2, 0x3D#8⟩ ∧ padrep 2#2 ⟨c0, c1, c2, c3⟩ = ⟨c0, c1, 0x3D#8, 0x3D#8⟩) ∧
  (∀ b : Bytes3, (alutAll (xtr6 (cat3 (fill 1#2 b)))).c3 = 0x41#8) ∧
  (∀ b : Bytes3, (alutAll (xtr6 (cat3 (fill 2#2 b)))).c2 = 0x41#8 ∧ (alutAll (xtr6 (cat3 (fill 2#2 b)))).c3 = 0x41#8)

/-- R133: the three accepted pad patterns and the thirteen refused ones. -/
def Obligations.PadPatternClassification : Prop :=
  padcls false false false false = .count 0#2 ∧ padcls false false false true = .count 1#2 ∧
  padcls false false true true = .count 2#2 ∧
  (∀ p0 p1 p2 p3 : Bool,
    (p0, p1, p2, p3) ∉ [(false, false, false, false), (false, false, false, true), (false, false, true, true)] →
      padcls p0 p1 p2 p3 = .misplaced) ∧
  (∀ c : Byte, (rlut c).isPad = true ↔ c = 0x3D#8)

/-- ENC3 answers `OK` with the four characters of its group for every legal pad count, in every state; the lanes beyond the
real bytes are ignored (R130, R131, R132). -/
def Obligations.Enc3AnswersTheCharacters : Prop :=
  ∀ (pad : PadField) (b0 b1 b2 : Byte) (s : State), pad ≠ 3#2 →
    exec (.enc3 pad b0 b1 b2) s = .next (answered s (rsp 0 0
      (lanes4 (groupChar pad.toNat (filledBlock pad.toNat b0.toNat b1.toNat b2.toNat) 0)
        (groupChar pad.toNat (filledBlock pad.toNat b0.toNat b1.toNat b2.toNat) 1)
        (groupChar pad.toNat (filledBlock pad.toNat b0.toNat b1.toNat b2.toNat) 2)
        (groupChar pad.toNat (filledBlock pad.toNat b0.toNat b1.toNat b2.toNat) 3))))

/-- R132: ENC3 as a request word: encoding, effect, error, corner cases and example. -/
def Obligations.Enc3Command : Prop :=
  (∀ (s : State) (r : Request) (rest : List Request), s.pending = r :: rest → r.extractLsb' 32 3 = 4#3 →
    step s = .next (answered { s with pending := rest }
      (if r.extractLsb' 26 6 ≠ 0#6 ∨ r.extractLsb' 24 2 = 3#2 then rsp 4 0 0
       else
        let pad := (r.extractLsb' 24 2).toNat
        let blk := filledBlock pad (r.extractLsb' 16 8).toNat (r.extractLsb' 8 8).toNat (r.extractLsb' 0 8).toNat
        rsp 0 0 (lanes4 (groupChar pad blk 0) (groupChar pad blk 1) (groupChar pad blk 2) (groupChar pad blk 3))))) ∧
  [0x400000000#35, 0x4004D6100#35, 0x4014D6100#35, 0x401FFFFFF#35, 0x401FFFF00#35, 0x402FFFFFF#35, 0x402FF0000#35,
    0x400FFFFFF#35, 0x4004D616E#35].map issue =
  [0x41414141#37, 0x54574541#37, 0x5457453D#37, 0x2F2F383D#37, 0x2F2F383D#37, 0x2F773D3D#37, 0x2F773D3D#37,
    0x2F2F2F2F#37, 0x54574675#37] ∧
  (∀ (pad : PadField) (b0 b1 b2 : Byte), pad ≠ 3#2 →
    let w := rspPayload (issue (encode (.enc3 pad b0 b1 b2)))
    ((lanesOf w).filter (· == 0x3D#8)).length = pad.toNat ∧
    (1 ≤ pad.toNat → lane 3 w = 0x3D#8) ∧ (pad.toNat = 2 → lane 2 w = 0x3D#8) ∧
    (pad.toNat = 1 → ∃ v : Sextet, lane 2 w = alut v ∧ v.toNat % 4 = 0 ∧ v = b1.extractLsb' 0 4 ++ 0#2) ∧
    (pad.toNat = 2 → ∃ v : Sextet, lane 1 w = alut v ∧ v.toNat % 16 = 0 ∧ v = b0.extractLsb' 0 2 ++ 0#4) ∧
    (∀ c ∈ lanesOf w, (c ∈ ALPHA ∨ c = 0x3D#8) ∧ c.toNat < 0x80))

/-- DEC4 answers `OK` with the bytes of its group and their count for every group of alphabet characters with 0, 1 or 2
pad characters at its end, in every state; left-over bits are not checked (R134, R135). -/
def Obligations.Dec4AnswersTheBytes : Prop :=
  ∀ (c0 c1 c2 c3 : Byte) (v0 v1 : Nat) (s : State), charValue c0.toNat = some v0 → charValue c1.toNat = some v1 →
    (∀ v2 v3 : Nat, charValue c2.toNat = some v2 → charValue c3.toNat = some v3 →
      exec (.dec4 c0 c1 c2 c3) s = .next (answered s (rsp 0 3
        (lanes4 0 (groupByte 3 (blockOfSextets v0 v1 v2 v3) 0) (groupByte 3 (blockOfSextets v0 v1 v2 v3) 1)
          (groupByte 3 (blockOfSextets v0 v1 v2 v3) 2))))) ∧
    (∀ v2 : Nat, charValue c2.toNat = some v2 → c3 = 0x3D#8 →
      exec (.dec4 c0 c1 c2 c3) s = .next (answered s (rsp 0 2
        (lanes4 0 (groupByte 2 (blockOfSextets v0 v1 v2 0) 0) (groupByte 2 (blockOfSextets v0 v1 v2 0) 1)
          (groupByte 2 (blockOfSextets v0 v1 v2 0) 2))))) ∧
    (c2 = 0x3D#8 → c3 = 0x3D#8 →
      exec (.dec4 c0 c1 c2 c3) s = .next (answered s (rsp 0 1
        (lanes4 0 (groupByte 1 (blockOfSextets v0 v1 0 0) 0) (groupByte 1 (blockOfSextets v0 v1 0 0) 1)
          (groupByte 1 (blockOfSextets v0 v1 0 0) 2)))))

/-- DEC4's errors: `InvalidCharacter` when any lane holds an invalid code, whatever the pad pattern; otherwise
`MisplacedPadding` when the pad characters are not the last 0, 1 or 2 of the group; never garbage with `OK`
(R133, R135, R192, R193, R197). -/
def Obligations.Dec4RefusesMalformedGroups : Prop :=
  ∀ (c0 c1 c2 c3 : Byte) (s : State),
    ((∃ c ∈ [c0, c1, c2, c3], invalidCode c.toNat) →
      exec (.dec4 c0 c1 c2 c3) s = .next (answered s (rsp 2 0 0))) ∧
    ((∀ c ∈ [c0, c1, c2, c3], ¬ invalidCode c.toNat) →
      (c0 = 0x3D#8 ∨ c1 = 0x3D#8 ∨ (c2 = 0x3D#8 ∧ c3 ≠ 0x3D#8)) →
      exec (.dec4 c0 c1 c2 c3) s = .next (answered s (rsp 3 0 0)))

/-- DEC4 as a request word runs the command of its four lanes: every word with `op = 5` is legal; with the corner cases of
R135. -/
def Obligations.Dec4CommandCornerCases : Prop :=
  (∀ (s : State) (r : Request) (rest : List Request), s.pending = r :: rest → r.extractLsb' 32 3 = 5#3 →
    step s = exec (.dec4 (r.extractLsb' 24 8) (r.extractLsb' 16 8) (r.extractLsb' 8 8) (r.extractLsb' 0 8))
      { s with pending := rest }) ∧
  [0x541414141#35, 0x541413D3D#35, 0x54141413D#35, 0x52F2F2F2F#35, 0x55457463D#35, 0x55457453D#35, 0x554523D3D#35,
    0x554513D3D#35].map issue =
  [0x0300000000#37, 0x0100000000#37, 0x0200000000#37, 0x0300FFFFFF#37, 0x02004D6100#37, 0x02004D6100#37, 0x01004D0000#37,
    0x01004D0000#37] ∧
  (∀ r ∈ [0x53D3D3D3D#35, 0x5543D3D3D#35, 0x53D414141#35, 0x554513D41#35, 0x5543D4675#35, 0x5413D413D#35],
    issue r = 0x0C00000000#37) ∧
  (∀ r ∈ [0x554572D75#35, 0x554575F75#35, 0x554572075#35, 0x5543D2D75#35, 0x55457460A#35, 0x500414141#35],
    issue r = 0x0800000000#37)

/-- R136: the group round trip: DEC4 of ENC3's response payload answers the filled bytes and their count. -/
def Obligations.GroupRoundTrip : Prop :=
  ∀ (pad : PadField) (b0 b1 b2 : Byte), pad ≠ 3#2 →
    issue (requestWord 5#3 (rspPayload (issue (encode (.enc3 pad b0 b1 b2))))) =
      rsp 0 (3 - pad.toNat) (filledBlock pad.toNat b0.toNat b1.toNat b2.toNat)

/-- R137: the converse holds exactly for canonical groups, those whose left-over bits are zero. -/
def Obligations.GroupConverseOnlyForCanonicalGroups : Prop :=
  ∀ c0 c1 c2 c3 : Byte,
    let w := issue (encode (.dec4 c0 c1 c2 c3))
    statusField w = 0#3 →
    (issue (encode (.enc3 (3#2 - countField w) (lane 1 (rspPayload w)) (lane 2 (rspPayload w)) (lane 3 (rspPayload w)))) =
        rsp 0 0 (lanes4 c0.toNat c1.toNat c2.toNat c3.toNat) ↔
      (countField w = 2#2 → (RVAL c2).extractLsb' 0 2 = 0#2) ∧ (countField w = 1#2 → (RVAL c1).extractLsb' 0 4 = 0#4))

/-- The group commands are the compositions their rules say, as commands. ENC3, for every legal pad: XTR6 on the block of
the group with its last `pad` bytes zero, ALUT on each lane of the response, the last `pad` characters replaced by `=`.
DEC4, for every four codes: RLUT on each; a refused one gives `InvalidCharacter`; else the pad flags give
`MisplacedPadding` or the number of bytes kept of PCK6's block of the values (spec/95_test_vectors.md P5, R132, R135). -/
def Obligations.GroupCommandsAreCompositions : Prop :=
  (∀ (pad : PadField) (b0 b1 b2 : Byte), pad ≠ 3#2 →
    let b1' := if pad.toNat ≤ 1 then b1 else 0#8
    let b2' := if pad.toNat = 0 then b2 else 0#8
    let chars := (lanesOf (rspPayload (issue (encode (.xtr6 (b0 ++ b1' ++ b2')))))).map alutAnswer
    let w := issue (encode (.enc3 pad b0 b1 b2))
    statusField w = 0#3 ∧ countField w = 0#2 ∧
    lanesOf (rspPayload w) = chars.take (4 - pad.toNat) ++ List.replicate pad.toNat 0x3D#8) ∧
  (∀ c0 c1 c2 c3 : Byte,
    let flags := [c0, c1, c2, c3].map rlutFlag
    let blk := rlutPacked c0 c1 c2 c3
    issue (encode (.dec4 c0 c1 c2 c3)) =
      if [c0, c1, c2, c3].any rlutRefuses then rsp 2 0 0
      else if flags = [false, false, false, false] then rsp 0 3 (lanes4 0 (byteAt blk 0) (byteAt blk 1) (byteAt blk 2))
      else if flags = [false, false, false, true] then rsp 0 2 (lanes4 0 (byteAt blk 0) (byteAt blk 1) 0)
      else if flags = [false, false, true, true] then rsp 0 1 (lanes4 0 (byteAt blk 0) 0 0)
      else rsp 3 0 0)

/-! ## The message procedures (spec/43_message_procedures.md) -/

/-- R161, R162, R46: the pad count by cases, never 3; the working copy and its groups: whole groups of three consecutive
bytes, `ceil(len / 3)` of them, the fill bytes at the end of the last one, which holds a real byte. -/
def Obligations.WorkingCopyGroups : Prop :=
  (∀ n : Nat, padCount n = (3 - n % 3) % 3 ∧ (n % 3 = 0 → padCount n = 0) ∧ (n % 3 = 1 → padCount n = 2) ∧
    (n % 3 = 2 → padCount n = 1) ∧ padCount n < 3) ∧
  (∀ msg : List Byte,
    (workingCopy msg).length = msg.length + padCount msg.length ∧ (workingCopy msg).length % 3 = 0 ∧
    (groups3 (workingCopy msg)).length = (msg.length + 2) / 3 ∧
    (groups3 (workingCopy msg)).flatMap Bytes3.toList = msg ++ List.replicate (padCount msg.length) 0#8 ∧
    (∀ (k : Nat) (g : Bytes3), (groups3 (workingCopy msg))[k]? = some g →
      (workingCopy msg)[3 * k]? = some g.o0 ∧ (workingCopy msg)[3 * k + 1]? = some g.o1 ∧
      (workingCopy msg)[3 * k + 2]? = some g.o2 ∧ msg[3 * k]? = some g.o0))

/-- ENCODE meets the host's duties (R224), and a host that meets them, whatever it passes in the lanes beyond the message's
end, gets the same text (R163). -/
def Obligations.AnyDutifulHostGetsTheEncodedText : Prop :=
  (∀ msg : List Byte, EncodeDuties msg (encodeRequests msg)) ∧
  (∀ (msg : List Byte) (rs : List Request), EncodeDuties msg rs →
    ProcResult.ok (assembleText (rs.map issue)) = encodeMsg msg)

/-- R164: replacing the pad characters once, after all groups, gives the same text. -/
def Obligations.EncodeEqualsPadReplacementOnce : Prop :=
  ∀ msg : List Byte, encodeMsg msg = .ok (encodeOnce msg)

/-- R165: the length law. -/
def Obligations.EncodedLengthLaw : Prop :=
  ∀ msg : List Byte, ∃ txt, encodeMsg msg = .ok txt ∧ txt.length = (msg.length + 2) / 3 * 4 ∧ txt.length % 4 = 0

/-- R166: exactly `pad` trailing `=`, and no `=` anywhere else. -/
def Obligations.EncodedPaddingCountLaw : Prop :=
  ∀ msg : List Byte, ∃ body, encodeMsg msg = .ok (body ++ List.replicate ((3 - msg.length % 3) % 3) 0x3D#8) ∧
    0x3D#8 ∉ body

/-- R167: alphabet closure. -/
def Obligations.EncodedAlphabetClosure : Prop :=
  ∀ (msg txt : List Byte), encodeMsg msg = .ok txt → ∀ c ∈ txt, (c ∈ ALPHA ∨ c = 0x3D#8) ∧ c.toNat < 0x80

/-- R168, R177: the empty message and the empty text. -/
def Obligations.EmptyInputIssuesNoCommand : Prop :=
  encodeRequests [] = [] ∧ encodeMsg [] = .ok [] ∧ decodeRequests [] = [] ∧ decodeMsg [] = .ok []

/-- R169, R208: ENCODE has no error: every command it issues answers `OK`; and the commands of the encode direction answer
only `OK` or `IllegalCommand`. -/
def Obligations.EncodeDirectionHasNoError : Prop :=
  (∀ msg : List Byte, (∃ txt, encodeMsg msg = .ok txt) ∧ ∀ r ∈ encodeRequests msg, statusField (issue r) = 0#3) ∧
  (∀ r : Request, (opOf r = 0#3 ∨ opOf r = 1#3 ∨ opOf r = 2#3 ∨ opOf r = 4#3) →
    statusField (issue r) = 0#3 ∨ statusField (issue r) = 4#3)

/-- DECODE answers `Ok` exactly on well-formed texts (R170). -/
def Obligations.DecodeSucceedsExactlyOnWellFormedTexts : Prop :=
  ∀ txt : List Byte, (∃ msg, decodeMsg txt = .ok msg) ↔ wellFormedText txt = true

/-- R172: on well-formed text, counting the pads once and dropping once gives the same message. -/
def Obligations.DecodeEqualsDropOnce : Prop :=
  ∀ txt : List Byte, wellFormedText txt = true → decodeMsg txt = .ok (decodeOnce txt)

/-- The one status of a malformed text, by kind and not by position (R171, R174, R175, R197). -/
def Obligations.DecodeReportsErrorsByKind : Prop :=
  ∀ txt : List Byte,
    (txt.length % 4 ≠ 0 → decodeMsg txt = .err .invalidLength) ∧
    (txt.length % 4 = 0 → (∃ c ∈ txt, invalidCode c.toNat) → decodeMsg txt = .err .invalidCharacter) ∧
    (txt.length % 4 = 0 → (∀ c ∈ txt, ¬ invalidCode c.toNat) → wellFormedText txt = false →
      decodeMsg txt = .err .misplacedPadding)

/-- R176: the round trip of whole messages. -/
def Obligations.MessageRoundTrip : Prop :=
  ∀ msg : List Byte, ∃ txt, encodeMsg msg = .ok txt ∧ decodeMsg txt = .ok msg

/-- R179: DECODE is not injective, and ENCODE undoes it exactly on the texts that ENCODE can produce. -/
def Obligations.DecodeIsNotInjective : Prop :=
  (decodeMsg [0x54#8, 0x51#8, 0x3D#8, 0x3D#8] = .ok [0x4D#8] ∧ decodeMsg [0x54#8, 0x52#8, 0x3D#8, 0x3D#8] = .ok [0x4D#8]) ∧
  (∀ txt msg : List Byte, decodeMsg txt = .ok msg → (encodeMsg msg = .ok txt ↔ ∃ m, encodeMsg m = .ok txt))

/-- Both procedures run on the machine: they issue one command for each group (R181), and DECODE none where the length is
not a multiple of 4, for which it returns `InvalidLength` (R171); presenting those request words and
stepping once for each leaves nothing of them pending and delivers responses from which the result is assembled
(R163, R173, R227). -/
def Obligations.ProceduresRunOnTheMachine : Prop :=
  (∀ msg : List Byte, (encodeRequests msg).length = (msg.length + 2) / 3) ∧
  (∀ txt : List Byte, txt.length % 4 = 0 → (decodeRequests txt).length = txt.length / 4) ∧
  (∀ txt : List Byte, txt.length % 4 ≠ 0 → decodeRequests txt = [] ∧ decodeMsg txt = .err .invalidLength) ∧
  (∀ (msg : List Byte) (s : State), s.pending = encodeRequests msg →
    ∃ ws, Host.Core.run Sys2Proof.core ((msg.length + 2) / 3) s = .next { pending := [], responses := s.responses ++ ws } ∧
      encodeMsg msg = .ok (assembleText ws)) ∧
  (∀ (txt : List Byte) (s : State), txt.length % 4 = 0 → s.pending = decodeRequests txt →
    ∃ ws, Host.Core.run Sys2Proof.core (txt.length / 4) s = .next { pending := [], responses := s.responses ++ ws } ∧
      decodeMsg txt = assembleMessage ws)

/-- The parameters of R6 and R7 agree with the words and tables of the model, and the widths of R8 add up. -/
def Obligations.ParametersAgree : Prop :=
  Config.BLOCK_W = Config.GROUP_BYTES * Config.BYTE_W ∧ Config.BLOCK_W = Config.GROUP_CHARS * Config.SEXTET_W ∧
  Byte = BitVec Config.BYTE_W ∧ Byte = BitVec Config.CHAR_W ∧ Byte = BitVec Config.LANE_W ∧ Sextet = BitVec Config.SEXTET_W ∧
  Block = BitVec Config.BLOCK_W ∧ Request = BitVec Config.REQ_W ∧ ResponseWord = BitVec Config.RSP_W ∧
  Config.REQ_W = Config.OP_W + 4 * Config.LANE_W ∧ Config.RSP_W = Config.STATUS_W + 2 + 4 * Config.LANE_W ∧
  ALPHA.length = Config.ALPHA_N ∧ Config.ALPHA_N = 2 ^ Config.SEXTET_W ∧ (∀ n, padCount n ≤ Config.PAD_MAX) ∧
  (∀ n, Config.lengthAdmitted n = true)
end

