-- ==== Sys2Proof/Laws/State.lean ====
section
/-! SUPPORT. One lemma per field per update of State, so that no later proof unfolds a record update. -/

namespace Sys2Proof.Machine

@[simp] theorem answer_pending (x : Response) (s : State) : (answer x s).pending = s.pending := rfl
@[simp] theorem answer_responses (x : Response) (s : State) :
    (answer x s).responses = s.responses ++ [x.toWord] := rfl

@[simp] theorem give_pending (r : Request) (s : State) : (s.give r).pending = s.pending ++ [r] := rfl
@[simp] theorem give_responses (r : Request) (s : State) : (s.give r).responses = s.responses := rfl

@[simp] theorem giveAll_pending (rs : List Request) (s : State) : (s.giveAll rs).pending = s.pending ++ rs := rfl
@[simp] theorem giveAll_responses (rs : List Request) (s : State) : (s.giveAll rs).responses = s.responses := rfl

@[simp] theorem resetInput_pending (s : State) : (resetInput s).pending = s.pending := rfl
@[simp] theorem resetInput_responses (s : State) : (resetInput s).responses = s.responses := rfl

@[simp] theorem withFetchWord_pending (s : State) (nbits w : Nat) :
    (s.withFetchWord nbits w).pending = BitVec.ofNat 35 (w % 2 ^ nbits) :: s.pending := rfl
@[simp] theorem withFetchWord_responses (s : State) (nbits w : Nat) :
    (s.withFetchWord nbits w).responses = s.responses := rfl

@[simp] theorem reset_pending : State.reset.pending = [] := rfl
@[simp] theorem reset_responses : State.reset.responses = [] := rfl

end Sys2Proof.Machine
end

