-- ==== Sys2Proof/Laws/Ops.lean ====
section
/-! SUPPORT. What each shared operation can do, said once: fetching, ending a command, executing, stepping, issuing. -/

namespace Sys2Proof.Machine

/-! ## Fetching and ending a command -/

theorem fetch_of_nil (s : State) (h : s.pending = []) : fetch s = none := by
  simp only [fetch, h]

theorem fetch_of_cons (s : State) (r : Request) (rest : List Request) (h : s.pending = r :: rest) :
    fetch s = some (r, { s with pending := rest }) := by
  simp only [fetch, h]

theorem finish_eq (x : Response) (s : State) : finish x s = .next (answer x s) := rfl

theorem respond_eq (count : BitVec 2) (payload : Payload) (s : State) :
    respond count payload s = .next (answer (okResponse count payload) s) := rfl

theorem raise_eq (st : Status) (s : State) : raise st s = .next (answer (errorResponse st) s) := rfl

/-! ## Executing -/

/-- The response of a command, as a function of the command alone. -/
def responseOf : Instr → Response
  | .xtr6 blk => okResponse 0#2 (sextetPayload (xtr6 blk))
  | .pck6 v0 v1 v2 v3 => okResponse 0#2 (blockPayload (pck6 ⟨v0, v1, v2, v3⟩))
  | .alut v => okResponse 0#2 (charPayload (alut v))
  | .rlut c =>
    match rlut c with
    | .value v => okResponse 0#2 (lookupPayload false v)
    | .pad     => okResponse 0#2 (lookupPayload true 0#6)
    | .invalid => errorResponse .invalidCharacter
  | .enc3 pad b0 b1 b2 =>
    if pad = 3#2 then errorResponse .illegalCommand
    else okResponse 0#2 (charsPayload (encodeGroup pad ⟨b0, b1, b2⟩))
  | .dec4 c0 c1 c2 c3 =>
    if (rlut c0).isInvalid || (rlut c1).isInvalid || (rlut c2).isInvalid || (rlut c3).isInvalid then
      errorResponse .invalidCharacter
    else
      match padcls (rlut c0).isPad (rlut c1).isPad (rlut c2).isPad (rlut c3).isPad with
      | .misplaced => errorResponse .misplacedPadding
      | .count pad =>
        okResponse (decodeGroup pad (rlut c0) (rlut c1) (rlut c2) (rlut c3)).1
          (bytesPayload (decodeGroup pad (rlut c0) (rlut c1) (rlut c2) (rlut c3)).2)

/-- Executing a command delivers its response and does nothing else. -/
theorem exec_eq (i : Instr) (s : State) : exec i s = .next (answer (responseOf i) s) := by
  cases i with
  | xtr6 blk => rfl
  | pck6 v0 v1 v2 v3 => rfl
  | alut v => rfl
  | rlut c => simp only [exec, execRlut, responseOf]; cases rlut c <;> rfl
  | enc3 pad b0 b1 b2 => simp only [exec, execEnc3, responseOf]; split <;> rfl
  | dec4 c0 c1 c2 c3 =>
    simp only [exec, execDec4, responseOf]
    split
    · rfl
    · cases padcls (rlut c0).isPad (rlut c1).isPad (rlut c2).isPad (rlut c3).isPad <;> rfl

/-- The response of a request word: its command's, or `IllegalCommand` where it is no command. -/
def responseTo (r : Request) : Response :=
  match decode r with
  | .ok i    => responseOf i
  | .error _ => errorResponse .illegalCommand

theorem responseTo_of_ok (r : Request) (i : Instr) (h : decode r = .ok i) : responseTo r = responseOf i := by
  simp only [responseTo, h]

theorem responseTo_of_error (r : Request) (e : Reject) (h : decode r = .error e) :
    responseTo r = errorResponse .illegalCommand := by
  simp only [responseTo, h]

/-! ## Stepping and issuing -/

theorem step_of_nil (s : State) (h : s.pending = []) : step s = .next s := by
  simp only [step, fetch_of_nil s h]

theorem step_of_cons (s : State) (r : Request) (rest : List Request) (h : s.pending = r :: rest) :
    step s = .next (answer (responseTo r) { s with pending := rest }) := by
  simp only [step, fetch_of_cons s r rest h, responseTo]
  cases decode r with
  | ok i => simp only [exec_eq]
  | error e => simp only [raise_eq]

/-- Everything a step can do: nothing, where no request word is presented; else take the first one and deliver its
response. -/
theorem step_cases (s t : State) (h : step s = .next t) :
    (s.pending = [] ∧ t = s) ∨
    (∃ r rest, s.pending = r :: rest ∧ t = { pending := rest, responses := s.responses ++ [(responseTo r).toWord] }) := by
  cases hp : s.pending with
  | nil =>
    rw [step_of_nil s hp] at h
    exact .inl ⟨rfl, (Host.Outcome.next.inj h).symm⟩
  | cons r rest =>
    rw [step_of_cons s r rest hp] at h
    exact .inr ⟨r, rest, rfl, (Host.Outcome.next.inj h).symm⟩

theorem issue_eq (r : Request) : issue r = (responseTo r).toWord := by
  have h : (State.reset.give r).pending = r :: [] := rfl
  simp only [issue, step_of_cons _ r [] h]
  rfl

/-! ## DECODE's commands -/

theorem decodeRequests_of_whole_groups (txt : List Byte) (h : txt.length % 4 = 0) :
    decodeRequests txt = (decodeCommands (groups4 txt)).map encode := by
  simp only [decodeRequests, h, ne_eq, not_true_eq_false, if_false]

end Sys2Proof.Machine
end

