-- ==== Sys2Proof/Laws/Words.lean ====
section
/-! SUPPORT. The fields of request words, response words and payloads that were put together from fields. -/

namespace Sys2Proof

theorem opOf_requestWord (op : BitVec 3) (w : Payload) : opOf (requestWord op w) = op :=
  BitVec.extractLsb'_append_eq_left

theorem payloadOf_requestWord (op : BitVec 3) (w : Payload) : payloadOf (requestWord op w) = w :=
  BitVec.extractLsb'_append_eq_right

theorem requestWord_eta (r : Request) : requestWord (opOf r) (payloadOf r) = r :=
  BitVec.extractLsb'_append_extractLsb'_eq_extractLsb' (x := r) rfl |>.trans (by simp)

/-- Concatenation as arithmetic: the more significant part times a power of two, plus the less significant part. -/
theorem toNat_append_eq_add (m n : Nat) (x : BitVec m) (y : BitVec n) : (x ++ y).toNat = x.toNat * 2 ^ n + y.toNat := by
  rw [BitVec.toNat_append, Nat.shiftLeft_eq, Nat.mul_comm, Nat.two_pow_add_eq_or_of_lt y.isLt]

theorem lane_lanes (x0 x1 x2 x3 : Byte) :
    lane 0 (lanes x0 x1 x2 x3) = x0 ∧ lane 1 (lanes x0 x1 x2 x3) = x1 ∧
    lane 2 (lanes x0 x1 x2 x3) = x2 ∧ lane 3 (lanes x0 x1 x2 x3) = x3 := by
  refine ⟨?_, ?_, ?_, ?_⟩ <;> ext i hi <;> simp [lane, lanes] <;> grind

theorem lanes_eta (w : Payload) : lanes (lane 0 w) (lane 1 w) (lane 2 w) (lane 3 w) = w := by
  ext i hi
  simp [lane, lanes]
  grind

/-! ## Decoding, opcode by opcode (R65) -/

theorem decode_op0 (w : Payload) : decode (requestWord 0#3 w) =
    if w &&& 0xFF000000#32 = 0#32 then .ok (.xtr6 (w.extractLsb' 0 24)) else .error .reservedBits := by
  simp only [decode, opOf_requestWord, payloadOf_requestWord]; rfl

theorem decode_op1 (w : Payload) : decode (requestWord 1#3 w) =
    if w &&& 0xC0C0C0C0#32 = 0#32 then
      .ok (.pck6 (laneSextet 0 w) (laneSextet 1 w) (laneSextet 2 w) (laneSextet 3 w))
    else .error .reservedBits := by
  simp only [decode, opOf_requestWord, payloadOf_requestWord]; rfl

theorem decode_op2 (w : Payload) : decode (requestWord 2#3 w) =
    if w &&& 0xFFFFFFC0#32 = 0#32 then .ok (.alut (w.extractLsb' 0 6)) else .error .reservedBits := by
  simp only [decode, opOf_requestWord, payloadOf_requestWord]; rfl

theorem decode_op3 (w : Payload) : decode (requestWord 3#3 w) =
    if w &&& 0xFFFFFF00#32 = 0#32 then .ok (.rlut (lane 3 w)) else .error .reservedBits := by
  simp only [decode, opOf_requestWord, payloadOf_requestWord]; rfl

theorem decode_op4 (w : Payload) : decode (requestWord 4#3 w) =
    if w &&& 0xFC000000#32 = 0#32 then
      if padFieldOf w = 3#2 then .error .reservedPad else .ok (.enc3 (padFieldOf w) (lane 1 w) (lane 2 w) (lane 3 w))
    else .error .reservedBits := by
  simp only [decode, opOf_requestWord, payloadOf_requestWord]; rfl

theorem decode_op5 (w : Payload) : decode (requestWord 5#3 w) =
    .ok (.dec4 (lane 0 w) (lane 1 w) (lane 2 w) (lane 3 w)) := by
  have h : w &&& 0#32 = 0#32 := BitVec.and_zero
  have hd : decode (requestWord 5#3 w) =
      if w &&& 0#32 = 0#32 then .ok (.dec4 (lane 0 w) (lane 1 w) (lane 2 w) (lane 3 w))
      else .error .reservedBits := by
    simp only [decode, opOf_requestWord, payloadOf_requestWord]; rfl
  rw [hd, if_pos h]

theorem decode_op6 (w : Payload) : decode (requestWord 6#3 w) = .error .reservedOpcode := by
  have h : w &&& 0#32 = 0#32 := BitVec.and_zero
  have hd : decode (requestWord 6#3 w) =
      if w &&& 0#32 = 0#32 then .error .reservedOpcode else .error .reservedBits := by
    simp only [decode, opOf_requestWord, payloadOf_requestWord]; rfl
  rw [hd, if_pos h]

theorem decode_op7 (w : Payload) : decode (requestWord 7#3 w) = .error .reservedOpcode := by
  have h : w &&& 0#32 = 0#32 := BitVec.and_zero
  have hd : decode (requestWord 7#3 w) =
      if w &&& 0#32 = 0#32 then .error .reservedOpcode else .error .reservedBits := by
    simp only [decode, opOf_requestWord, payloadOf_requestWord]; rfl
  rw [hd, if_pos h]

/-- An opcode field has one of eight values. -/
theorem op_cases (op : BitVec 3) :
    op = 0#3 ∨ op = 1#3 ∨ op = 2#3 ∨ op = 3#3 ∨ op = 4#3 ∨ op = 5#3 ∨ op = 6#3 ∨ op = 7#3 := by
  revert op; decide

/-! ## Reserved bits as fields (R67) -/

/-- A mask that covers one field selects that field. -/
theorem masked_zero_iff (w m : Payload) (start len : Nat)
    (hm : ∀ i : Fin 32, m.getLsbD i.val = (decide (start ≤ i.val) && decide (i.val < start + len)))
    (hw : start + len ≤ 32) : w &&& m = 0#32 ↔ w.extractLsb' start len = 0#len := by
  simp only [BitVec.eq_of_getLsbD_eq_iff, BitVec.getLsbD_and, BitVec.getLsbD_extractLsb', BitVec.getLsbD_zero]
  constructor
  · intro h i hi
    have := h (start + i) (by omega)
    rw [hm ⟨start + i, by omega⟩] at this
    simpa [hi] using this
  · intro h i hi
    rw [hm ⟨i, hi⟩]
    by_cases hs : start ≤ i ∧ i < start + len
    · have := h (i - start) (by omega)
      rw [Nat.add_sub_cancel' hs.1] at this
      have hd : i - start < len := by omega
      simp_all
    · simp only [not_and, not_lt] at hs
      by_cases h1 : start ≤ i
      · have := hs h1; simp; omega
      · simp [h1]

theorem reserved_op0 (w : Payload) : w &&& 0xFF000000#32 = 0#32 ↔ w.extractLsb' 24 8 = 0#8 :=
  masked_zero_iff w _ 24 8 (by decide) (by decide)

theorem reserved_op2 (w : Payload) : w &&& 0xFFFFFFC0#32 = 0#32 ↔ w.extractLsb' 6 26 = 0#26 :=
  masked_zero_iff w _ 6 26 (by decide) (by decide)

theorem reserved_op3 (w : Payload) : w &&& 0xFFFFFF00#32 = 0#32 ↔ w.extractLsb' 8 24 = 0#24 :=
  masked_zero_iff w _ 8 24 (by decide) (by decide)

theorem reserved_op4 (w : Payload) : w &&& 0xFC000000#32 = 0#32 ↔ w.extractLsb' 26 6 = 0#6 :=
  masked_zero_iff w _ 26 6 (by decide) (by decide)

theorem reserved_op1 (w : Payload) : w &&& 0xC0C0C0C0#32 = 0#32 ↔
    w.extractLsb' 30 2 = 0#2 ∧ w.extractLsb' 22 2 = 0#2 ∧ w.extractLsb' 14 2 = 0#2 ∧ w.extractLsb' 6 2 = 0#2 := by
  rw [← masked_zero_iff w 0xC0000000#32 30 2 (by decide) (by decide),
    ← masked_zero_iff w 0x00C00000#32 22 2 (by decide) (by decide),
    ← masked_zero_iff w 0x0000C000#32 14 2 (by decide) (by decide),
    ← masked_zero_iff w 0x000000C0#32 6 2 (by decide) (by decide)]
  have hm : (0xC0C0C0C0#32 : Payload) = 0xC0000000#32 ||| 0x00C00000#32 ||| 0x0000C000#32 ||| 0x000000C0#32 := by decide
  rw [hm]
  simp only [BitVec.and_or_distrib_left, BitVec.or_eq_zero_iff, and_assoc]

end Sys2Proof

namespace Sys2Proof.Machine

theorem statusField_toWord (x : Response) : statusField x.toWord = x.status.code := by
  ext i hi; simp [statusField, Response.toWord]; grind

theorem countField_toWord (x : Response) : countField x.toWord = x.count := by
  ext i hi; simp [countField, Response.toWord]; grind

theorem rspPayload_toWord (x : Response) : rspPayload x.toWord = x.payload := by
  ext i hi; simp [rspPayload, Response.toWord]; grind

theorem status_ofCode_code (st : Status) : Status.ofCode st.code = some st := by cases st <;> rfl

end Sys2Proof.Machine
end

