-- ==== Sys2Proof/Laws/PerInstr.lean ====
section
/-! SUPPORT. The family EncodeMatchesRow: the encoding of every well-formed command is a word of its own row of
spec/opcode_table.json. One lemma per constructor of Instr. -/

namespace Sys2Proof.Laws.EncodeMatchesRow

/-- The encoding of a well-formed command lies in the row of its mnemonic. -/
def Statement (i : Instr) : Prop :=
  i.wellFormed = true → ∃ row ∈ opTable, row.mnemonic = i.mnemonic ∧ row.covers (encode i) = true

/-- The reserved bits of each format are zero in its encoding, and the opcode field is the row's. -/
theorem masked_xtr6 (blk : Block) : encode (.xtr6 blk) &&& 0x7FF000000#35 = 0x000000000#35 := by
  ext i hi
  simp only [encode, requestWord, BitVec.getElem_and, BitVec.getElem_append]
  interval_cases i <;> simp

theorem masked_pck6 (v0 v1 v2 v3 : Sextet) : encode (.pck6 v0 v1 v2 v3) &&& 0x7C0C0C0C0#35 = 0x100000000#35 := by
  ext i hi
  simp only [encode, requestWord, lanes, sextetLane, BitVec.getElem_and, BitVec.getElem_append]
  interval_cases i <;> simp

theorem masked_alut (s : Sextet) : encode (.alut s) &&& 0x7FFFFFFC0#35 = 0x200000000#35 := by
  ext i hi
  simp only [encode, requestWord, BitVec.getElem_and, BitVec.getElem_append]
  interval_cases i <;> simp

theorem masked_rlut (c : Byte) : encode (.rlut c) &&& 0x7FFFFFF00#35 = 0x300000000#35 := by
  ext i hi
  simp only [encode, requestWord, BitVec.getElem_and, BitVec.getElem_append]
  interval_cases i <;> simp

theorem masked_enc3 (pad : PadField) (b0 b1 b2 : Byte) :
    encode (.enc3 pad b0 b1 b2) &&& 0x7FC000000#35 = 0x400000000#35 := by
  ext i hi
  simp only [encode, requestWord, BitVec.getElem_and, BitVec.getElem_append]
  interval_cases i <;> simp

theorem masked_dec4 (c0 c1 c2 c3 : Byte) : encode (.dec4 c0 c1 c2 c3) &&& 0x700000000#35 = 0x500000000#35 := by
  ext i hi
  simp only [encode, requestWord, lanes, BitVec.getElem_and, BitVec.getElem_append]
  interval_cases i <;> simp

/-- A legal pad count leaves one of the two pad bits zero. -/
theorem unmasked_pad (pad : PadField) (b0 b1 b2 : Byte) (h : pad ≠ 3#2) :
    encode (.enc3 pad b0 b1 b2) &&& 0x003000000#35 ≠ 0x003000000#35 := by
  intro he
  apply h
  have h24 := congrArg (fun w : BitVec 35 => w.getLsbD 24) he
  have h25 := congrArg (fun w : BitVec 35 => w.getLsbD 25) he
  simp only [encode, requestWord, BitVec.getLsbD_and, BitVec.getLsbD_append] at h24 h25
  simp at h24 h25
  ext i hi
  interval_cases i <;> simp_all

theorem xtr6 (blk : Block) : Statement (.xtr6 blk) := fun _ =>
  ⟨_, List.mem_of_getElem? (i := 0) rfl, rfl, by simp [OpRow.covers, masked_xtr6]⟩

theorem pck6 (v0 v1 v2 v3 : Sextet) : Statement (.pck6 v0 v1 v2 v3) := fun _ =>
  ⟨_, List.mem_of_getElem? (i := 1) rfl, rfl, by simp [OpRow.covers, masked_pck6]⟩

theorem alut (s : Sextet) : Statement (.alut s) := fun _ =>
  ⟨_, List.mem_of_getElem? (i := 2) rfl, rfl, by simp [OpRow.covers, masked_alut]⟩

theorem rlut (c : Byte) : Statement (.rlut c) := fun _ =>
  ⟨_, List.mem_of_getElem? (i := 3) rfl, rfl, by simp [OpRow.covers, masked_rlut]⟩

theorem enc3 (pad : PadField) (b0 b1 b2 : Byte) : Statement (.enc3 pad b0 b1 b2) := fun h =>
  ⟨_, List.mem_of_getElem? (i := 4) rfl, rfl, by
    have hp : pad ≠ 3#2 := by simpa [Instr.wellFormed] using h
    simp [OpRow.covers, masked_enc3, unmasked_pad pad b0 b1 b2 hp]⟩

theorem dec4 (c0 c1 c2 c3 : Byte) : Statement (.dec4 c0 c1 c2 c3) := fun _ =>
  ⟨_, List.mem_of_getElem? (i := 5) rfl, rfl, by simp [OpRow.covers, masked_dec4]⟩

end Sys2Proof.Laws.EncodeMatchesRow
end

