-- ==== Sys2Proof/Laws/Run.lean ====
section
/-! SUPPORT. What `Host.Core.run` does on this machine, one step at a time. -/

namespace Sys2Proof.Machine

/-- One step that answers, and then the rest of the run. -/
theorem run_succ_of_next (M : Host.Core) (k : Nat) (s t : M.State) (h : M.step s = .next t) :
    M.run (k + 1) s = M.run k t := by
  simp only [Host.Core.run, h]

theorem run_zero (s : State) : Host.Core.run Sys2Proof.core 0 s = .next s := rfl

/-- A run takes the first request word presented, delivers its response and goes on. -/
theorem run_of_cons (k : Nat) (s : State) (r : Request) (rest : List Request) (h : s.pending = r :: rest) :
    Host.Core.run Sys2Proof.core (k + 1) s =
      Host.Core.run Sys2Proof.core k ({ pending := rest, responses := s.responses ++ [issue r] } : State) := by
  refine run_succ_of_next Sys2Proof.core k s _ ?_
  rw [issue_eq]
  exact step_of_cons s r rest h

/-- A run with nothing presented changes nothing. -/
theorem run_of_nil (k : Nat) (s : State) (h : s.pending = []) : Host.Core.run Sys2Proof.core k s = .next s := by
  induction k with
  | zero => rfl
  | succ k ih => exact (run_succ_of_next Sys2Proof.core k s s (step_of_nil s h)).trans ih

end Sys2Proof.Machine
end

