-- ==== Sys2Proof/Tests/Slice0.lean ====
section
/-! SUPPORT. The model's own tests. Expected words are those of the spec's examples and vectors (spec/95_test_vectors.md
and the rules' own examples), not of the model. After them, a witness for every statement that has hypotheses. -/

open Sys2Proof Sys2Proof.Machine Sys2Proof.Spec

namespace Sys2Proof.Tests

/-- The state of an outcome, where it is a next state. -/
def stateOf : Host.Outcome State Fault Refusal → Option State
  | .next s    => some s
  | .fault _   => none
  | .refused _ => none

/-- A small state: one request waiting, one response delivered. -/
def st : State := { pending := [0x200000013#35], responses := [0x54#37] }

/-- The same with one response more. -/
def stWith (w : ResponseWord) : State := { pending := [0x200000013#35], responses := [0x54#37, w] }

/-- `st` with one request word presented before the other. -/
def stNext (r : Request) : State := { pending := r :: [0x200000013#35], responses := [0x54#37] }

/-! ## WellFormed: the one check, and a term it refuses (R68) -/

theorem test_wellFormed_refuses_pad_three : Instr.wellFormed (.enc3 3#2 1#8 2#8 3#8) = false := by decide
theorem test_wellFormed_accepts_pad_two : Instr.wellFormed (.enc3 2#2 1#8 2#8 3#8) = true := by decide

/-! ## Decoding: words written out bit by bit from R61, R62, R65 -/

theorem test_decode_xtr6 : decode (0b000_00000000_010011010110000101101110#35) = .ok (.xtr6 0x4D616E#24) := by decide
theorem test_decode_pck6 :
    decode (0b001_00_010011_00_010110_00_000101_00_101110#35) = .ok (.pck6 19#6 22#6 5#6 46#6) := by decide
theorem test_decode_alut : decode (0b010_00000000000000000000000000_010011#35) = .ok (.alut 19#6) := by decide
theorem test_decode_rlut : decode (0b011_000000000000000000000000_01110101#35) = .ok (.rlut 0x75#8) := by decide
theorem test_decode_enc3 :
    decode (0b100_000000_01_01001101_01100001_00000000#35) = .ok (.enc3 1#2 0x4D#8 0x61#8 0x00#8) := by decide
theorem test_decode_dec4 :
    decode (0b101_01010100_01010111_01000101_00111101#35) = .ok (.dec4 0x54#8 0x57#8 0x45#8 0x3D#8) := by decide

theorem test_decode_op6 : decode 0x6004D616E#35 = .error .reservedOpcode := by decide
theorem test_decode_op7 : decode 0x7FFFFFFFF#35 = .error .reservedOpcode := by decide
theorem test_decode_xtr6_bit24 : decode 0x001000000#35 = .error .reservedBits := by decide
theorem test_decode_pck6_lane_64 : decode 0x140000000#35 = .error .reservedBits := by decide
theorem test_decode_alut_64 : decode 0x200000040#35 = .error .reservedBits := by decide
theorem test_decode_rlut_bit8 : decode 0x300000141#35 = .error .reservedBits := by decide
theorem test_decode_enc3_bit26 : decode 0x404010203#35 = .error .reservedBits := by decide
theorem test_decode_enc3_pad3 : decode 0x403010203#35 = .error .reservedPad := by decide

theorem test_encode_enc3 : encode (.enc3 2#2 0x4D#8 0#8 0#8) = 0x4024D0000#35 := by decide
theorem test_encode_pck6 : encode (.pck6 4#6 35#6 17#6 22#6) = 0x104231116#35 := by decide

theorem test_table_word : decodeTableWord 40 0x554574675 = some (.dec4 0x54#8 0x57#8 0x46#8 0x75#8) := by decide
theorem test_table_word_too_wide : decodeTableWord 40 0x854574675 = none := by decide
theorem test_fetch_word_runs :
    stateOf (step (State.reset.withFetchWord 40 0x4004D616E)) = some ⟨[], [0x0054574675#37]⟩ := by decide

/-! ## One step, one command (spec/95_test_vectors.md sections 1 and 2) -/

theorem test_xtr6_boundary : stateOf (step (stNext 0x00003F000#35)) = some (stWith 0x00003F0000#37) := by decide
theorem test_xtr6_mixed : stateOf (step (stNext 0x000123456#35)) = some (stWith 0x0004231116#37) := by decide
theorem test_pck6_boundary : stateOf (step (stNext 0x100003F00#35)) = some (stWith 0x0000000FC0#37) := by decide
theorem test_pck6_mixed : stateOf (step (stNext 0x104231116#35)) = some (stWith 0x0000123456#37) := by decide
theorem test_alut_z_to_zero : stateOf (step (stNext 0x200000034#35)) = some (stWith 0x0000000030#37) := by decide
theorem test_alut_last : stateOf (step (stNext 0x20000003F#35)) = some (stWith 0x000000002F#37) := by decide
theorem test_rlut_pad : stateOf (step (stNext 0x30000003D#35)) = some (stWith 0x0000000100#37) := by decide
theorem test_rlut_colon : stateOf (step (stNext 0x30000003A#35)) = some (stWith 0x0800000000#37) := by decide
theorem test_enc3_fill_ignored : stateOf (step (stNext 0x402FFFFFF#35)) = some (stWith 0x002F773D3D#37) := by decide
theorem test_enc3_two_chars : stateOf (step (stNext 0x40014FB9C#35)) = some (stWith 0x0046507563#37) := by decide
theorem test_dec4_left_over : stateOf (step (stNext 0x52F2F3D3D#35)) = some (stWith 0x0100FF0000#37) := by decide
theorem test_dec4_both_faults : stateOf (step (stNext 0x5543D2D75#35)) = some (stWith 0x0800000000#37) := by decide
theorem test_dec4_misplaced : stateOf (step (stNext 0x554513D41#35)) = some (stWith 0x0C00000000#37) := by decide
theorem test_illegal_word : stateOf (step (stNext 0x6004D616E#35)) = some (stWith 0x1000000000#37) := by decide

/-! ## Message procedures (spec/95_test_vectors.md sections 2.8, 2.9, 3) -/

/-- P1: `Many` encodes to `TWFueQ==`. -/
theorem test_encode_many : encodeMsg [0x4D#8, 0x61#8, 0x6E#8, 0x79#8] =
    .ok [0x54#8, 0x57#8, 0x46#8, 0x75#8, 0x65#8, 0x51#8, 0x3D#8, 0x3D#8] := by decide

/-- P3: `00 FF 10 80 7F` encodes to `AP8QgH8=`. -/
theorem test_encode_extreme : encodeMsg [0x00#8, 0xFF#8, 0x10#8, 0x80#8, 0x7F#8] =
    .ok [0x41#8, 0x50#8, 0x38#8, 0x51#8, 0x67#8, 0x48#8, 0x38#8, 0x3D#8] := by decide

/-- P4 (b): `TQ==TWFu`; both commands answer OK, the error is the host's. -/
theorem test_decode_pad_not_last : decodeMsg [0x54#8, 0x51#8, 0x3D#8, 0x3D#8, 0x54#8, 0x57#8, 0x46#8, 0x75#8] =
    .err .misplacedPadding := by decide

/-- P4 (c): `T=FuTW-u`; by kind, not by position. -/
theorem test_decode_by_kind : decodeMsg [0x54#8, 0x3D#8, 0x46#8, 0x75#8, 0x54#8, 0x57#8, 0x2D#8, 0x75#8] =
    .err .invalidCharacter := by decide

/-- 2.9: `dGVzdA=`, length 7. -/
theorem test_decode_length : decodeMsg [0x64#8, 0x47#8, 0x56#8, 0x7A#8, 0x64#8, 0x41#8, 0x3D#8] =
    .err .invalidLength := by decide

/-! ## The notation of R72 -/

theorem test_read_enc3 : readLine "ENC3 1, 'M', 'a', 0" = some (.enc3 1#2 0x4D#8 0x61#8 0#8) := by decide
theorem test_read_dec4_string : readLine "DEC4 \"TWFu\" ; a comment" = some (.dec4 0x54#8 0x57#8 0x46#8 0x75#8) := by
  decide
theorem test_read_hex : readLine "XTR6 0x4D616E" = some (.xtr6 0x4D616E#24) := by decide
theorem test_read_refuses_64 : readLine "ALUT 64" = none := by decide
theorem test_write_dec4 : (Response.ofWord 0x02004D6100#37).map (writeResponse .DEC4) = some (.okCount 2 [77, 97, 0]) := by
  decide

/-- R91's example, `-> OK 46`. -/
theorem test_write_rlut : (Response.ofWord 0x2E#37).map (writeResponse .RLUT) = some (.ok [46]) := by decide

/-! ## Witnesses: a concrete case that meets all hypotheses of each statement that has some -/

theorem witness_DecodeInvertsEncode : Instr.wellFormed (.enc3 2#2 0xFF#8 0#8 0#8) = true := by decide

theorem witness_EncodeInvertsDecode : decode 0x13F3F3F3F#35 = .ok (.pck6 63#6 63#6 63#6 63#6) := by decide

theorem witness_DecodeAgreesWithOpcodeTable :
    (∃ row ∈ opTable, row.covers 0x402FFFFFF#35 = true) ∧ decode 0x402FFFFFF#35 = .ok (.enc3 2#2 0xFF#8 0xFF#8 0xFF#8) ∧
    (∀ row ∈ opTable, row.covers 0x403010203#35 = false) := by decide

/-- The first reserved opcode. -/
theorem witness_EveryRequestWordHasOneOfThreeOutcomes :
    (stNext 0x600000000#35).pending = 0x600000000#35 :: [0x200000013#35] ∧
    6 ≤ ((0x600000000#35 : Request).extractLsb' 32 3).toNat := by decide

/-- The lowest reserved bit of XTR6, and the reserved pad of ENC3. -/
theorem witness_EveryRequestWordHasOneOfThreeOutcomes_reserved :
    reservedBitSet 0x001000000#35 ∧ reservedPadSet 0x403000000#35 ∧
    ((0x403000000#35 : Request).extractLsb' 32 3).toNat < 6 := by
  refine ⟨.inl (by decide), by decide, by decide⟩

/-- Legal words with the greatest legal opcode and with the greatest legal pad. -/
theorem witness_EveryRequestWordHasOneOfThreeOutcomes_legal :
    (((0x5FFFFFFFF#35 : Request).extractLsb' 32 3).toNat < 6 ∧ ¬ reservedPadSet 0x5FFFFFFFF#35 ∧
      ¬ reservedBitSet 0x5FFFFFFFF#35) ∧
    (((0x402FFFFFF#35 : Request).extractLsb' 32 3).toNat < 6 ∧ ¬ reservedPadSet 0x402FFFFFF#35 ∧
      ¬ reservedBitSet 0x402FFFFFF#35) := by
  refine ⟨⟨by decide, by decide, by decide⟩, ⟨by decide, by decide, by decide⟩⟩

/-- Every disjunct at the edge of its range: both opcodes, the lowest reserved bit of each format, pad 3, and DEC4. -/
theorem witness_ReservedEncodingsAnswerIllegalCommand :
    (stNext 0x600000000#35).pending = 0x600000000#35 :: [0x200000013#35] ∧
    (0x600000000#35 : Request).extractLsb' 32 3 = 6#3 ∧ (0x700000000#35 : Request).extractLsb' 32 3 = 7#3 ∧
    (0x001000000#35 : Request).extractLsb' 32 3 = 0#3 ∧ (0x001000000#35 : Request).extractLsb' 24 8 ≠ 0#8 ∧
    (0x100000040#35 : Request).extractLsb' 32 3 = 1#3 ∧ (0x100000040#35 : Request).extractLsb' 6 2 ≠ 0#2 ∧
    (0x100004000#35 : Request).extractLsb' 14 2 ≠ 0#2 ∧ (0x100400000#35 : Request).extractLsb' 22 2 ≠ 0#2 ∧
    (0x140000000#35 : Request).extractLsb' 30 2 ≠ 0#2 ∧
    (0x200000040#35 : Request).extractLsb' 32 3 = 2#3 ∧ (0x200000040#35 : Request).extractLsb' 6 26 ≠ 0#26 ∧
    (0x300000100#35 : Request).extractLsb' 32 3 = 3#3 ∧ (0x300000100#35 : Request).extractLsb' 8 24 ≠ 0#24 ∧
    (0x404000000#35 : Request).extractLsb' 32 3 = 4#3 ∧ (0x404000000#35 : Request).extractLsb' 26 6 ≠ 0#6 ∧
    (0x403000000#35 : Request).extractLsb' 24 2 = 3#2 ∧ (0x500000000#35 : Request).extractLsb' 32 3 = 5#3 := by decide

theorem witness_AssembledCommandsAreLegal :
    assemble .ENC3 [.num 2, .chr 0x4D#8, .num 255, .num 0] = some (.enc3 2#2 0x4D#8 0xFF#8 0#8) ∧
    assemble .XTR6 [.num (2 ^ 24 - 1)] = some (.xtr6 0xFFFFFF#24) ∧ assemble .XTR6 [.num (2 ^ 24)] = none ∧
    assemble .ALUT [.num 63] = some (.alut 63#6) ∧ assemble .RLUT [.num 255] = some (.rlut 255#8) ∧
    64 ∈ [0, 64, 0, 0] ∧ 256 ∈ [0, 0, 0, 256] ∧ Instr.wellFormed (.dec4 0#8 0#8 0#8 0#8) = true := by decide

theorem witness_StepRunsDecodedCommand :
    st.pending = 0x200000013#35 :: [] ∧ decode 0x200000013#35 = .ok (.alut 19#6) ∧ State.reset.pending = [] := by decide

theorem witness_CommandsOnlyAddTheirResponse :
    stateOf (exec (.dec4 0x54#8 0x57#8 0x46#8 0x75#8) st) = some (stWith 0x03004D616E#37) := by decide

theorem witness_ResponseIsFunctionOfRequestWord : (stNext 0x7FFFFFFFF#35).pending = 0x7FFFFFFFF#35 :: st.pending := by decide

/-- A pending word whose response is an error. -/
theorem witness_ErrorResponsesCarryOnlyTheStatus :
    (stNext 0x53D3D3D3D#35).pending = 0x53D3D3D3D#35 :: st.pending ∧
    stateOf (step (stNext 0x53D3D3D3D#35)) = some (stWith 0x0C00000000#37) ∧ statusField 0x0C00000000#37 ≠ 0#3 := by decide

theorem witness_ResponseWordLayout :
    (statusField 0x1400000000#37).toNat = 5 ∧ Response.ofWord 0x1400000000#37 = none := by decide

theorem witness_InvalidLengthComesFromDecodeOnly :
    (stNext 0x500000000#35).pending = 0x500000000#35 :: st.pending ∧
    stateOf (step (stNext 0x500000000#35)) = some (stWith 0x0800000000#37) ∧ [0x54#8, 0x57#8, 0x46#8].length % 4 ≠ 0 := by
  decide

/-- A state with every kind of legal response delivered, and one request word that a step answers. -/
def stLegal : State :=
  ⟨[0x53D3D3D3D#35], [0x54#37, 0x0100FF0000#37, 0x0300FFFFFF#37, 0x0800000000#37, 0x0C00000000#37, 0x1000000000#37]⟩

theorem test_legal_responses : stLegal.responses.all legalResponse = true := by decide

theorem test_illegal_response : legalResponse 0x0400000000#37 = false := by decide

theorem witness_StepKeepsResponsesLegal : stLegal.Inv ∧ (stateOf (step stLegal)).isSome = true :=
  ⟨List.all_eq_true.mp test_legal_responses, by decide⟩

theorem witness_QueueAnswersEachRequestAsAlone :
    (⟨[0x53D3D3D3D#35, 0x7FFFFFFFF#35, 0x4004D616E#35], []⟩ : State).pending =
      [0x53D3D3D3D#35, 0x7FFFFFFFF#35] ++ [0x4004D616E#35] := by decide

theorem witness_AnyIssueOrderGivesTheSameResponses :
    [1, 0].Perm (List.range [0x53D3D3D3D#35, 0x4004D616E#35].length) ∧
    (⟨[0x4004D616E#35, 0x53D3D3D3D#35], [0x54#37]⟩ : State).pending =
      [1, 0].filterMap (fun k => [0x53D3D3D3D#35, 0x4004D616E#35][k]?) := by decide

theorem witness_InterleavedProceduresDoNotInterfere :
    (⟨[0x4004D616E#35, 0x554574675#35, 0x402790000#35], []⟩ : State).pending =
      [(true, 0x4004D616E#35), (false, 0x554574675#35), (true, 0x402790000#35)].map Prod.snd := by decide

theorem witness_InverseAlphabetTable :
    charValue (0x5A#8 : Byte).toNat = some 25 ∧ charValue (0x2F#8 : Byte).toNat = some 63 ∧
    (charValue (0x5B#8 : Byte).toNat = none ∧ (0x5B#8 : Byte).toNat ≠ 0x3D) ∧ RCLASS 0x30#8 = .alphaChar := by decide

theorem witness_LookupsAreInverse : rlut 0x7A#8 = .value 51#6 ∧ alut 51#6 = alut 51#6 := by decide

theorem witness_AlutCommand :
    (stNext 0x20000003F#35).pending = 0x20000003F#35 :: st.pending ∧ (0x20000003F#35 : Request).extractLsb' 32 3 = 2#3 ∧
    (0x200000040#35 : Request).extractLsb' 32 3 = 2#3 ∧ (0x200000040#35 : Request).extractLsb' 6 26 ≠ 0#26 := by decide

theorem witness_RlutAnswersByClass :
    charValue (0x41#8 : Byte).toNat = some 0 ∧ charValue (0x7A#8 : Byte).toNat = some 51 ∧
    (charValue (0x3C#8 : Byte).toNat = none ∧ (0x3C#8 : Byte).toNat ≠ 0x3D) := by decide

theorem witness_RlutCommand :
    (stNext 0x3000000FF#35).pending = 0x3000000FF#35 :: st.pending ∧ (0x3000000FF#35 : Request).extractLsb' 32 3 = 3#3 ∧
    0x80 ≤ 0x80 ∧ 0xFF ≤ 0xFF := by decide

theorem witness_Xtr6Command :
    (stNext 0x000FFFFFF#35).pending = 0x000FFFFFF#35 :: st.pending ∧ (0x000FFFFFF#35 : Request).extractLsb' 32 3 = 0#3 := by
  decide

theorem witness_Pck6Command :
    (stNext 0x13F3F3F3F#35).pending = 0x13F3F3F3F#35 :: st.pending ∧ (0x13F3F3F3F#35 : Request).extractLsb' 32 3 = 1#3 := by
  decide

theorem witness_PadPatternClassification :
    (false, false, true, false) ∉ [(false, false, false, false), (false, false, false, true), (false, false, true, true)] := by
  decide

theorem witness_Enc3AnswersTheCharacters : (2#2 : PadField) ≠ 3#2 ∧ (0#2 : PadField) ≠ 3#2 := by decide

theorem witness_Enc3Command :
    (stNext 0x402FFFFFF#35).pending = 0x402FFFFFF#35 :: st.pending ∧ (0x402FFFFFF#35 : Request).extractLsb' 32 3 = 4#3 ∧
    1 ≤ (1#2 : PadField).toNat ∧ (1#2 : PadField).toNat = 1 ∧ (2#2 : PadField).toNat = 2 := by decide

/-- A group for each clause: `TWFu`, `TWE=`, `TQ==`. -/
theorem witness_Dec4AnswersTheBytes :
    charValue (0x54#8 : Byte).toNat = some 19 ∧ charValue (0x57#8 : Byte).toNat = some 22 ∧
    charValue (0x46#8 : Byte).toNat = some 5 ∧ charValue (0x75#8 : Byte).toNat = some 46 ∧
    charValue (0x45#8 : Byte).toNat = some 4 ∧ charValue (0x51#8 : Byte).toNat = some 16 := by decide

/-- `TW-u` for the first clause; `====`, `=AAA`, `A=AA` and `TQ=A` for the second. -/
theorem witness_Dec4RefusesMalformedGroups :
    (charValue (0x2D#8 : Byte).toNat = none ∧ (0x2D#8 : Byte).toNat ≠ 0x3D) ∧
    (∀ c ∈ [0x3D#8, 0x41#8, 0x54#8, 0x51#8], ¬ (charValue (c : Byte).toNat = none ∧ c.toNat ≠ 0x3D)) ∧
    (0x41#8 : Byte) ≠ 0x3D#8 := by decide

theorem witness_Dec4CommandCornerCases :
    (stNext 0x5FFFFFFFF#35).pending = 0x5FFFFFFFF#35 :: st.pending ∧ (0x5FFFFFFFF#35 : Request).extractLsb' 32 3 = 5#3 := by
  decide

theorem witness_GroupRoundTrip : (1#2 : PadField) ≠ 3#2 := by decide

/-- Groups with count 3, 2 and 1, canonical and not: `TWFu`, `TWE=`, `TWF=`, `TQ==`, `TR==`. -/
theorem witness_GroupConverseOnlyForCanonicalGroups :
    [(0x57#8, 0x46#8, 0x75#8), (0x57#8, 0x45#8, 0x3D#8), (0x57#8, 0x46#8, 0x3D#8), (0x51#8, 0x3D#8, 0x3D#8),
      (0x52#8, 0x3D#8, 0x3D#8)].map (fun c => (statusField (issue (encode (.dec4 0x54#8 c.1 c.2.1 c.2.2))),
        countField (issue (encode (.dec4 0x54#8 c.1 c.2.1 c.2.2))))) =
    [(0#3, 3#2), (0#3, 2#2), (0#3, 2#2), (0#3, 1#2), (0#3, 1#2)] := by decide

/-- P5: `M`, `a` with one fill byte, `TWE=`; `T=-u` and `TQ=A` are refused. -/
theorem witness_GroupCommandsAreCompositions :
    (1#2 : PadField) ≠ 3#2 ∧
    [0x13#8, 0x16#8, 0x04#8, 0x00#8].map alutAnswer = [0x54#8, 0x57#8, 0x45#8, 0x41#8] ∧
    issue (encode (.enc3 1#2 0x4D#8 0x61#8 0x00#8)) = 0x005457453D#37 ∧
    [0x54#8, 0x57#8, 0x45#8, 0x3D#8].map rlutFlag = [false, false, false, true] ∧
    rlutPacked 0x54#8 0x57#8 0x45#8 0x3D#8 = 0x4D6100 ∧
    issue (encode (.dec4 0x54#8 0x57#8 0x45#8 0x3D#8)) = 0x02004D6100#37 ∧ rlutRefuses 0x2D#8 = true ∧
    [0x54#8, 0x51#8, 0x3D#8, 0x41#8].map rlutFlag = [false, false, true, false] := by decide

theorem witness_WorkingCopyGroups :
    (groups3 (workingCopy [1#8, 2#8, 3#8, 4#8]))[1]? = some ⟨4#8, 0#8, 0#8⟩ ∧ 4 % 3 = 1 ∧ 5 % 3 = 2 ∧ 3 % 3 = 0 := by decide

/-- A host that meets its duties with something else than zeros in the fill lanes of the last group. -/
theorem witness_AnyDutifulHostGetsTheEncodedText :
    EncodeDuties [0x4D#8, 0x61#8, 0x6E#8, 0x79#8]
      [encode (.enc3 0#2 0x4D#8 0x61#8 0x6E#8), encode (.enc3 2#2 0x79#8 0xAA#8 0x55#8)] := by
  refine ⟨rfl, ?_⟩
  intro k hk
  have hk2 : k < 2 := hk
  interval_cases k
  · refine ⟨0x4D#8, 0x61#8, 0x6E#8, rfl, ?_⟩
    intro j hj
    have hj3 : j < 3 := hj
    interval_cases j <;> rfl
  · refine ⟨0x79#8, 0xAA#8, 0x55#8, rfl, ?_⟩
    intro j hj
    have hj1 : j < 1 := hj
    interval_cases j
    rfl

theorem witness_EncodedAlphabetClosure : encodeMsg [0xFF#8] = .ok [0x2F#8, 0x77#8, 0x3D#8, 0x3D#8] := by decide

theorem witness_EncodeDirectionHasNoError :
    0x4024D0000#35 ∈ encodeRequests [0x4D#8] ∧ opOf 0x000000000#35 = 0#3 ∧ opOf 0x100000000#35 = 1#3 ∧
    opOf 0x200000000#35 = 2#3 ∧ opOf 0x400000000#35 = 4#3 := by decide

theorem witness_DecodeEqualsDropOnce :
    wellFormedText [0x54#8, 0x57#8, 0x46#8, 0x75#8, 0x54#8, 0x51#8, 0x3D#8, 0x3D#8] = true ∧ wellFormedText [] = true := by
  decide

/-- `TWF`; `TW-u`; `====` and `TQ==TQ==`. -/
theorem witness_DecodeReportsErrorsByKind :
    [0x54#8, 0x57#8, 0x46#8].length % 4 ≠ 0 ∧
    ([0x54#8, 0x57#8, 0x2D#8, 0x75#8].length % 4 = 0 ∧ charValue (0x2D#8 : Byte).toNat = none) ∧
    (∀ c ∈ [0x54#8, 0x51#8, 0x3D#8], ¬ (charValue (c : Byte).toNat = none ∧ c.toNat ≠ 0x3D)) ∧
    wellFormedText [0x3D#8, 0x3D#8, 0x3D#8, 0x3D#8] = false ∧
    wellFormedText [0x54#8, 0x51#8, 0x3D#8, 0x3D#8, 0x54#8, 0x51#8, 0x3D#8, 0x3D#8] = false := by decide

theorem witness_DecodeIsNotInjective : decodeMsg [0x54#8, 0x52#8, 0x3D#8, 0x3D#8] = .ok [0x4D#8] := by decide

theorem witness_ProceduresRunOnTheMachine :
    (⟨encodeRequests [0x4D#8], [0x54#37]⟩ : State).pending = encodeRequests [0x4D#8] ∧
    [0x54#8, 0x51#8, 0x3D#8, 0x3D#8].length % 4 = 0 ∧ [0x54#8, 0x51#8, 0x3D#8, 0x3D#8, 0x54#8].length % 4 ≠ 0 ∧
    (⟨decodeRequests [0x54#8, 0x51#8, 0x3D#8, 0x3D#8], []⟩ : State).pending =
      decodeRequests [0x54#8, 0x51#8, 0x3D#8, 0x3D#8] := by decide

end Sys2Proof.Tests
end

section
/-! The parameters of spec/00_scope.md section 3 against the model: the pad count's bound (R6, PAD_MAX) and the
admitted lengths (R7, MAX_MSG_LEN). -/

namespace Sys2Proof.Config

/-- R160's default: no bound on a message or a text. -/
@[simp] theorem lengthAdmitted_eq_true (n : Nat) : lengthAdmitted n = true := rfl

end Sys2Proof.Config

namespace Sys2Proof.Machine

/-- A pad count is a remainder mod 3 (R161), so PAD_MAX of R6 bounds it. -/
theorem padCount_le_PAD_MAX (n : Nat) : padCount n ≤ Config.PAD_MAX :=
  Nat.le_of_lt_succ (Nat.mod_lt (3 - n % 3) (by decide))

/-- Settles O59: the widths are the model's own by definition, the table's size is `ALPHA_length`, the pad bound is
that of a remainder mod 3, and MAX_MSG_LEN is no bound. -/
theorem parametersAgree : Obligations.ParametersAgree := by
  unfold Obligations.ParametersAgree
  have block_width_bytes : Config.BLOCK_W = Config.GROUP_BYTES * Config.BYTE_W := rfl
  have block_width_sextets : Config.BLOCK_W = Config.GROUP_CHARS * Config.SEXTET_W := rfl
  have request_width : Config.REQ_W = Config.OP_W + 4 * Config.LANE_W := rfl
  have response_width : Config.RSP_W = Config.STATUS_W + 2 + 4 * Config.LANE_W := rfl
  have alphabet_size : Config.ALPHA_N = 2 ^ Config.SEXTET_W := by decide
  exact ⟨block_width_bytes, block_width_sextets, rfl, rfl, rfl, rfl, rfl, rfl, rfl, request_width, response_width,
    ALPHA_length, alphabet_size, padCount_le_PAD_MAX, Config.lengthAdmitted_eq_true⟩

end Sys2Proof.Machine
end

section
/-! The interface of spec/10_state.md (R20 to R23, R33): what a command and a step do to it, from `exec_eq` and the
step's equations; the response word as the spec writes it (R63). -/

namespace Sys2Proof.Machine

open Sys2Proof.Spec

/-- The spec's `answered` is what `answer` does. -/
theorem answer_eq_answered (x : Response) (s : State) : answer x s = answered s x.toWord := rfl

/-- R63: the fields of a response word as a sum. -/
theorem toWord_eq_rsp (x : Response) : x.toWord = rsp x.status.code.toNat x.count.toNat x.payload.toNat := by
  apply BitVec.eq_of_toNat_eq
  simp only [Response.toWord, rsp, toNat_append_eq_add, BitVec.toNat_ofNat]
  omega

/-- Inversion of `exec`: the state it gives is the old one with the command's response delivered. -/
theorem eq_answer_of_exec (i : Instr) (s t : State) (h : exec i s = .next t) : t = answer (responseOf i) s :=
  (Host.Outcome.next.inj ((exec_eq i s).symm.trans h)).symm

/-- Settles O9: `answer` keeps the presented requests and adds one word. -/
theorem commandsOnlyAddTheirResponse : Obligations.CommandsOnlyAddTheirResponse := by
  intro i s t h
  obtain rfl := eq_answer_of_exec i s t h
  exact ⟨answer_pending _ s, (responseOf i).toWord, answer_responses _ s⟩

/-- Settles O10: the function is the word of `responseTo`. -/
theorem responseIsFunctionOfRequestWord : Obligations.ResponseIsFunctionOfRequestWord :=
  ⟨fun r => (responseTo r).toWord, fun s r rest h => step_of_cons s r rest h⟩

/-- Settles O8: both sides deliver the response of the decoded command. -/
theorem stepRunsDecodedCommand : Obligations.StepRunsDecodedCommand := by
  refine ⟨fun s r rest i hpending hdecode => ?_, step_of_nil⟩
  rw [step_of_cons s r rest hpending, responseTo_of_ok r i hdecode, exec_eq]

/-- Settles O15: no response word has been delivered at reset. -/
theorem resetResponsesLegal : Obligations.ResetResponsesLegal := by
  intro w hw
  rw [reset_responses] at hw
  exact absurd hw List.not_mem_nil

/-- Settles O16: the reset state's fields and the constants, by their definitions. -/
theorem resetLeavesTheConstants : Obligations.ResetLeavesTheConstants :=
  ⟨reset_pending, reset_responses, fun _ => rfl, rfl, rfl, ALPHA_length⟩

end Sys2Proof.Machine
end

section
/-! The closed forms of R25 and R26 on natural numbers, `alphaCode` and `charValue`: each undoes the other. -/

namespace Sys2Proof.Spec

theorem alphaCode_lt (i : Nat) : alphaCode i < 0x80 := by
  unfold alphaCode
  split_ifs <;> omega

theorem charValue_alphaCode (i : Nat) (h : i < 64) : charValue (alphaCode i) = some i := by
  unfold alphaCode charValue
  split_ifs <;> try rw [Option.some.injEq]
  all_goals omega

theorem charValue_eq_some_iff (c v : Nat) : charValue c = some v ↔ v < 64 ∧ alphaCode v = c := by
  constructor
  · intro h
    unfold charValue at h
    split_ifs at h <;> cases h <;> unfold alphaCode <;> split_ifs <;> omega
  · rintro ⟨hv, rfl⟩
    exact charValue_alphaCode v hv

/-- `charValue` is a left inverse, so the 64 codes are distinct. -/
theorem alphaCodes_nodup : ((List.range 64).map alphaCode).Nodup := by
  refine List.Nodup.map_on (fun i hi j hj h => ?_) List.nodup_range
  have hvalue : charValue (alphaCode i) = charValue (alphaCode j) := congrArg charValue h
  rw [charValue_alphaCode i (List.mem_range.mp hi), charValue_alphaCode j (List.mem_range.mp hj)] at hvalue
  exact Option.some.inj hvalue

end Sys2Proof.Spec
end

section
/-! The two tables of R25 and R26 against their closed forms; the laws of the tables follow from those of the closed
forms, and so does ALUT's response. -/

namespace Sys2Proof.Machine

open Sys2Proof.Spec

/-! ## The alphabet (R25) -/

/-- The table of R25, entry by entry. -/
theorem ALPHA_map_toNat : ALPHA.map BitVec.toNat = (List.range 64).map alphaCode := by decide

theorem ALPHA_getElem?_eq_alut (i : Sextet) : ALPHA[i.toNat]? = some (alut i) :=
  List.getElem?_eq_getElem _

@[simp] theorem alut_toNat (i : Sextet) : (alut i).toNat = alphaCode i.toNat := by
  have hentry := congrArg (fun codes => codes[i.toNat]?) ALPHA_map_toNat
  simpa only [List.getElem?_map, ALPHA_getElem?_eq_alut, List.getElem?_range i.isLt, Option.map_some,
    Option.some.injEq] using hentry

theorem alut_eq_alphaCode (i : Sextet) : alut i = BitVec.ofNat 8 (alphaCode i.toNat) := by
  rw [← alut_toNat, BitVec.ofNat_toNat, BitVec.setWidth_eq]

theorem ALPHA_getElem?_eq_alphaCode (i : Sextet) : ALPHA[i.toNat]? = some (BitVec.ofNat 8 (alphaCode i.toNat)) := by
  rw [ALPHA_getElem?_eq_alut, alut_eq_alphaCode]

theorem ALPHA_nodup : ALPHA.Nodup :=
  List.Nodup.of_map BitVec.toNat (ALPHA_map_toNat ▸ alphaCodes_nodup)

theorem toNat_lt_of_mem_ALPHA (c : Byte) (h : c ∈ ALPHA) : c.toNat < 0x80 := by
  have hcode : c.toNat ∈ (List.range 64).map alphaCode := ALPHA_map_toNat ▸ List.mem_map_of_mem h
  obtain ⟨i, -, hi⟩ := List.mem_map.mp hcode
  exact hi ▸ alphaCode_lt i

/-- Settles O20, from the closed form of the table. -/
theorem alphabetTable : Obligations.AlphabetTable :=
  ⟨ALPHA_length, ALPHA_getElem?_eq_alphaCode, ALPHA_nodup, toNat_lt_of_mem_ALPHA⟩

/-! ## The inverse table (R26) -/

/-- The inverse table of R26 by the closed form of the values. -/
theorem readRALPHA_eq (c : Byte) : readRALPHA c =
    (charValue c.toNat).elim (if c = 0x3D#8 then ⟨.padChar, 0#6⟩ else ⟨.invalid, 0#6⟩)
      (fun v => ⟨.alphaChar, BitVec.ofNat 6 v⟩) := by
  have hplus : c = 0x2B#8 ↔ c.toNat = 0x2B := BitVec.toNat_eq
  have hslash : c = 0x2F#8 ↔ c.toNat = 0x2F := BitVec.toNat_eq
  simp only [readRALPHA, charValue, hplus, hslash]
  split_ifs <;> rfl

theorem readRALPHA_of_charValue (c : Byte) (v : Nat) (h : charValue c.toNat = some v) :
    readRALPHA c = ⟨.alphaChar, BitVec.ofNat 6 v⟩ := by
  rw [readRALPHA_eq, h, Option.elim_some]

theorem readRALPHA_pad : readRALPHA 0x3D#8 = ⟨.padChar, 0#6⟩ := rfl

theorem readRALPHA_of_invalidCode (c : Byte) (h : invalidCode c.toNat) : readRALPHA c = ⟨.invalid, 0#6⟩ := by
  obtain ⟨hvalue, hpad⟩ := h
  rw [readRALPHA_eq, hvalue, Option.elim_none, if_neg (fun h => hpad (congrArg BitVec.toNat h))]

/-- R26: a code is an alphabet character, the pad character, or neither. -/
theorem charCode_cases (c : Byte) :
    (∃ v, charValue c.toNat = some v) ∨ c = 0x3D#8 ∨ invalidCode c.toNat := by
  cases hvalue : charValue c.toNat with
  | some v => exact .inl ⟨v, rfl⟩
  | none =>
    by_cases hpad : c = 0x3D#8
    · exact .inr (.inl hpad)
    · exact .inr (.inr ⟨hvalue, fun h => hpad (BitVec.eq_of_toNat_eq h)⟩)

theorem RCLASS_of_charValue (c : Byte) (v : Nat) (h : charValue c.toNat = some v) : RCLASS c = .alphaChar :=
  congrArg RalphaEntry.cls (readRALPHA_of_charValue c v h)

theorem RCLASS_of_invalidCode (c : Byte) (h : invalidCode c.toNat) : RCLASS c = .invalid :=
  congrArg RalphaEntry.cls (readRALPHA_of_invalidCode c h)

theorem RCLASS_pad : RCLASS 0x3D#8 = .padChar :=
  congrArg RalphaEntry.cls readRALPHA_pad

theorem RCLASS_eq_alphaChar_iff (c : Byte) : RCLASS c = .alphaChar ↔ ∃ v, charValue c.toNat = some v := by
  refine ⟨fun hclass => ?_, fun ⟨v, h⟩ => RCLASS_of_charValue c v h⟩
  rcases charCode_cases c with hvalue | rfl | hinvalid
  · exact hvalue
  · cases RCLASS_pad.symm.trans hclass
  · cases (RCLASS_of_invalidCode c hinvalid).symm.trans hclass

theorem RCLASS_eq_padChar_iff (c : Byte) : RCLASS c = .padChar ↔ c = 0x3D#8 := by
  refine ⟨fun hclass => ?_, fun h => h ▸ RCLASS_pad⟩
  rcases charCode_cases c with ⟨v, hvalue⟩ | hpad | hinvalid
  · cases (RCLASS_of_charValue c v hvalue).symm.trans hclass
  · exact hpad
  · cases (RCLASS_of_invalidCode c hinvalid).symm.trans hclass

theorem RVAL_toNat_of_charValue (c : Byte) (v : Nat) (h : charValue c.toNat = some v) : (RVAL c).toNat = v := by
  obtain ⟨hv, -⟩ := (charValue_eq_some_iff _ v).mp h
  rw [RVAL, readRALPHA_of_charValue c v h]
  exact Nat.mod_eq_of_lt hv

/-! ### The defining law -/

theorem charValue_alut (i : Sextet) : charValue (alut i).toNat = some i.toNat := by
  rw [alut_toNat, charValue_alphaCode _ i.isLt]

theorem RCLASS_alut (i : Sextet) : RCLASS (alut i) = .alphaChar :=
  RCLASS_of_charValue _ _ (charValue_alut i)

theorem RVAL_alut (i : Sextet) : RVAL (alut i) = i :=
  BitVec.eq_of_toNat_eq (RVAL_toNat_of_charValue _ _ (charValue_alut i))

theorem alut_RVAL (c : Byte) (h : RCLASS c = .alphaChar) : alut (RVAL c) = c := by
  obtain ⟨v, hvalue⟩ := (RCLASS_eq_alphaChar_iff c).mp h
  obtain ⟨-, hcode⟩ := (charValue_eq_some_iff _ v).mp hvalue
  apply BitVec.eq_of_toNat_eq
  rw [alut_toNat, RVAL_toNat_of_charValue c v hvalue, hcode]

/-! ### The class counts -/

/-- The codes below 256 of the alphabet's class are the 64 entries of the alphabet. -/
theorem mem_alphaCodes_iff (n : Nat) :
    (n ∈ (List.range 256).filter (fun n => RCLASS (BitVec.ofNat 8 n) == .alphaChar)) ↔
      n ∈ (List.range 64).map alphaCode := by
  have hcode : n < 256 → (BitVec.ofNat 8 n).toNat = n := fun hn => Nat.mod_eq_of_lt hn
  simp only [List.mem_filter, List.mem_range, List.mem_map, beq_iff_eq, RCLASS_eq_alphaChar_iff, charValue_eq_some_iff]
  constructor
  · rintro ⟨hn, i, hi, h⟩
    exact ⟨i, hi, h.trans (hcode hn)⟩
  · rintro ⟨i, hi, rfl⟩
    have hn : alphaCode i < 256 := Nat.lt_trans (alphaCode_lt i) (by decide)
    exact ⟨hn, i, hi, (hcode hn).symm⟩

theorem count_alphaChar : (List.range 256).countP (fun n => RCLASS (BitVec.ofNat 8 n) == .alphaChar) = 64 := by
  have hperm := (List.perm_ext_iff_of_nodup (List.nodup_range.filter _) alphaCodes_nodup).mpr mem_alphaCodes_iff
  rw [List.countP_eq_length_filter, hperm.length_eq, List.length_map, List.length_range]

theorem count_padChar : (List.range 256).countP (fun n => RCLASS (BitVec.ofNat 8 n) == .padChar) = 1 := by
  have hpad : ∀ n ∈ List.range 256, (RCLASS (BitVec.ofNat 8 n) == .padChar) = true ↔ (n == 0x3D) = true := by
    intro n hn
    have hcode : (BitVec.ofNat 8 n).toNat = n := Nat.mod_eq_of_lt (List.mem_range.mp hn)
    rw [beq_iff_eq, beq_iff_eq, RCLASS_eq_padChar_iff, BitVec.toNat_eq, hcode]
    rfl
  rw [List.countP_congr hpad]
  exact List.count_eq_one_of_mem List.nodup_range (List.mem_range.mpr (by decide))

/-- Every code has exactly one of the three classes. -/
theorem count_classes (ns : List Nat) :
    ns.countP (fun n => RCLASS (BitVec.ofNat 8 n) == .alphaChar) +
      ns.countP (fun n => RCLASS (BitVec.ofNat 8 n) == .padChar) +
      ns.countP (fun n => RCLASS (BitVec.ofNat 8 n) == .invalid) = ns.length := by
  induction ns with
  | nil => rfl
  | cons n ns ih =>
    simp only [List.countP_cons, List.length_cons]
    cases RCLASS (BitVec.ofNat 8 n) <;> simp only [reduceCtorEq, beq_iff_eq, if_true, if_false] <;> omega

theorem count_invalid : (List.range 256).countP (fun n => RCLASS (BitVec.ofNat 8 n) == .invalid) = 191 := by
  have hsum := count_classes (List.range 256)
  rw [count_alphaChar, count_padChar, List.length_range] at hsum
  omega

/-- Settles O21: the ranges by the closed form of the values, the counts because the alphabet's class is the 64 entries
of `ALPHA`, the defining law because `alphaCode` and `charValue` undo each other. -/
theorem inverseAlphabetTable : Obligations.InverseAlphabetTable := by
  refine ⟨fun c v h => ⟨RCLASS_of_charValue c v h, RVAL_toNat_of_charValue c v h⟩, ⟨RCLASS_pad, ?pad⟩, fun c h =>
    ⟨RCLASS_of_invalidCode c h, ?invalid⟩, count_alphaChar, count_padChar, count_invalid,
    fun i => ⟨RCLASS_alut i, RVAL_alut i⟩, alut_RVAL⟩
  case pad => exact congrArg RalphaEntry.val readRALPHA_pad
  case invalid => exact congrArg RalphaEntry.val (readRALPHA_of_invalidCode c h)

/-! ## ALUT's response (R90) -/

theorem charPayload_toNat (ch : Byte) : (charPayload ch).toNat = ch.toNat :=
  BitVec.toNat_setWidth_of_le (by decide)

theorem responseOf_alut_toWord (v : Sextet) : (responseOf (.alut v)).toWord = rsp 0 0 (alphaCode v.toNat) := by
  have hpayload : (charPayload (alut v)).toNat = alphaCode v.toNat := by rw [charPayload_toNat, alut_toNat]
  rw [toWord_eq_rsp, ← hpayload]
  rfl

/-- Settles O23: executing ALUT delivers its response (`exec_eq`), whose payload is the table's closed form. -/
theorem alutAnswersTheCharacter : Obligations.AlutAnswersTheCharacter := by
  intro v s
  rw [exec_eq, answer_eq_answered, responseOf_alut_toWord]

end Sys2Proof.Machine
end

section
/-! The order of commands (spec/20_memory.md R50): a run answers each presented request as `issue` does, and so the
responses do not depend on the order in which the requests come. -/

namespace Sys2Proof.Machine

/-- Settles O17, by induction on the queue: a run answers its first request as `issue` does (`run_of_cons`), and what
was answered before makes no difference to the rest. -/
theorem queueAnswersEachRequestAsAlone : Obligations.QueueAnswersEachRequestAsAlone := by
  intro rs rest
  induction rs with
  | nil =>
    intro s hpending
    rw [List.map_nil, List.append_nil, ← hpending.trans (List.nil_append rest)]
    exact run_zero s
  | cons r rs ih =>
    intro s hpending
    rw [List.length_cons, run_of_cons rs.length s r (rs ++ rest) hpending, ih _ rfl, List.map_cons,
      List.append_assoc, List.singleton_append]

/-- The run of O17 for a queue that holds nothing else. -/
theorem run_whole_queue (rs : List Request) (s : State) (h : s.pending = rs) :
    Host.Core.run Sys2Proof.core rs.length s = .next { pending := [], responses := s.responses ++ rs.map issue } :=
  queueAnswersEachRequestAsAlone rs [] s (h.trans (List.append_nil rs).symm)

/-- Where every index of `σ` has a request, the requests in the order of `σ` are a `map`. -/
theorem filterMap_getElem?_eq_map (rs : List Request) (σ : List Nat) (h : ∀ k ∈ σ, k < rs.length) :
    σ.filterMap (fun k => rs[k]?) = σ.map (fun k => rs.getD k 0#35) := by
  have hget : ∀ k ∈ σ, rs[k]? = some (rs.getD k 0#35) := fun k hk => by
    rw [List.getD_eq_getElem _ _ (h k hk), List.getElem?_eq_getElem (h k hk)]
  rw [List.filterMap_congr hget, List.filterMap_eq_map']

/-- Looking up an index in the indexes paired with the values of a function gives the function's value. -/
theorem lookup_zip_map {β : Type} (f : Nat → β) (σ : List Nat) (k : Nat) (h : k ∈ σ) :
    (σ.zip (σ.map f)).lookup k = some (f k) := by
  rw [← List.map_prod_left_eq_zip]
  exact List.lookup_graph f h

/-- Settles O18: a run answers the requests in the order of `σ` each as `issue` does, and looking up an index of
`σ` finds the response of that index. -/
theorem anyIssueOrderGivesTheSameResponses : Obligations.AnyIssueOrderGivesTheSameResponses := by
  intro rs σ s hperm hpending
  have hmem : ∀ k, k ∈ σ ↔ k < rs.length := fun k => hperm.mem_iff.trans List.mem_range
  rw [filterMap_getElem?_eq_map rs σ (fun k hk => (hmem k).mp hk)] at hpending
  have hrun := run_whole_queue _ s hpending
  rw [List.length_map, hperm.length_eq, List.length_range, List.map_map] at hrun
  refine ⟨_, hrun, fun k hk => ?_⟩
  rw [lookup_zip_map _ σ k ((hmem k).mpr hk), Function.comp_apply, List.getD_eq_getElem _ _ hk]

end Sys2Proof.Machine
end

section
/-! The block as bit fields (spec/20_memory.md R43, R44): the joins of R110 and R112 are concatenations, the cuts of
R111 and R113 are fields, and a field of a concatenation lies in one part or runs across two. -/

namespace Sys2Proof.Machine

/-! ## Joins and cuts of the block -/

/-- R43: the first byte of a group is the most significant. -/
theorem cat3_eq_append (b : Bytes3) : cat3 b = b.o0 ++ b.o1 ++ b.o2 := by
  ext i hi
  simp only [cat3, BitVec.getElem_or, BitVec.getElem_shiftLeft, BitVec.getElem_setWidth]
  grind

/-- R43: the first sextet of a group is the most significant. -/
theorem pck6_eq_append (v : Sextets) : pck6 v = v.s0 ++ v.s1 ++ v.s2 ++ v.s3 := by
  ext i hi
  simp only [pck6, BitVec.getElem_or, BitVec.getElem_shiftLeft, BitVec.getElem_setWidth]
  grind

/-- A shift and a mask of `w` ones cut out a field of `w` bits. -/
theorem setWidth_ushiftRight_and_mask (blk mask : Block) (start w : Nat) (h : mask.setWidth w = BitVec.allOnes w) :
    ((blk >>> start) &&& mask).setWidth w = blk.extractLsb' start w := by
  rw [BitVec.setWidth_and, h, BitVec.and_allOnes, BitVec.setWidth_ushiftRight_eq_extractLsb]

theorem xtr6_eq_fields (blk : Block) :
    xtr6 blk = ⟨blk.extractLsb' 18 6, blk.extractLsb' 12 6, blk.extractLsb' 6 6, blk.extractLsb' 0 6⟩ := by
  have hfield (start : Nat) : ((blk >>> start) &&& 0x3F#24).setWidth 6 = blk.extractLsb' start 6 :=
    setWidth_ushiftRight_and_mask blk _ start 6 (by decide)
  rw [xtr6, hfield, hfield, hfield, ← hfield 0, BitVec.ushiftRight_zero]

theorem ext8_eq_fields (blk : Block) :
    ext8 blk = ⟨blk.extractLsb' 16 8, blk.extractLsb' 8 8, blk.extractLsb' 0 8⟩ := by
  have hfield (start : Nat) : ((blk >>> start) &&& 0xFF#24).setWidth 8 = blk.extractLsb' start 8 :=
    setWidth_ushiftRight_and_mask blk _ start 8 (by decide)
  rw [ext8, hfield, hfield, ← hfield 0, BitVec.ushiftRight_zero]

/-! ## Fields of a concatenation -/

/-- A field that runs across both parts of a concatenation: `len` low bits of the upper part, then the bits of the
lower part from `start` on. -/
theorem extractLsb'_append_across {m n : Nat} (x : BitVec m) (y : BitVec n) (start len k : Nat) (h : start + k = n) :
    (x ++ y).extractLsb' start (len + k) = x.extractLsb' 0 len ++ y.extractLsb' start k := by
  ext i hi
  simp only [BitVec.getElem_extractLsb', BitVec.getElem_append, BitVec.getLsbD_append]
  grind

/-- The low bits of a concatenation are those of its lower part. -/
theorem extractLsb'_zero_append {m n : Nat} (x : BitVec m) (y : BitVec n) (len : Nat) (h : len ≤ n) :
    (x ++ y).extractLsb' 0 len = y.extractLsb' 0 len :=
  BitVec.extractLsb'_append_eq_of_add_le ((Nat.zero_add len).symm ▸ h)

/-! ## The mixed-width view (R44) -/

/-- The sextets of three bytes: the outer two lie in one byte, the inner two run across two. -/
theorem xtr6_cat3_eq (b : Bytes3) : xtr6 (cat3 b) =
    ⟨b.o0.extractLsb' 2 6, b.o0.extractLsb' 0 2 ++ b.o1.extractLsb' 4 4, b.o1.extractLsb' 0 4 ++ b.o2.extractLsb' 6 2,
      b.o2.extractLsb' 0 6⟩ := by
  have above_b2 (start len : Nat) (h : 8 ≤ start) :
      (b.o0 ++ b.o1 ++ b.o2).extractLsb' start len = (b.o0 ++ b.o1).extractLsb' (start - 8) len :=
    BitVec.extractLsb'_append_eq_of_le h
  rw [xtr6_eq_fields, cat3_eq_append, Sextets.mk.injEq]
  refine ⟨?first, ?second, ?third, ?fourth⟩
  case first => exact (above_b2 18 6 (by decide)).trans (BitVec.extractLsb'_append_eq_of_le (by decide))
  case second => exact (above_b2 12 6 (by decide)).trans (extractLsb'_append_across b.o0 b.o1 4 2 4 rfl)
  case third =>
    rw [← extractLsb'_zero_append b.o0 b.o1 4 (by decide)]
    exact extractLsb'_append_across (b.o0 ++ b.o1) b.o2 6 4 2 rfl
  case fourth => exact extractLsb'_zero_append (b.o0 ++ b.o1) b.o2 6 (by decide)

/-- The bytes of four sextets: each runs across two, and the first and the last sextet are in their byte whole. -/
theorem ext8_pck6_eq (v : Sextets) : ext8 (pck6 v) =
    ⟨v.s0 ++ v.s1.extractLsb' 4 2, v.s1.extractLsb' 0 4 ++ v.s2.extractLsb' 2 4, v.s2.extractLsb' 0 2 ++ v.s3⟩ := by
  have above_v3 (start len : Nat) (h : 6 ≤ start) :
      (v.s0 ++ v.s1 ++ v.s2 ++ v.s3).extractLsb' start len = (v.s0 ++ v.s1 ++ v.s2).extractLsb' (start - 6) len :=
    BitVec.extractLsb'_append_eq_of_le h
  have above_v2 : (v.s0 ++ v.s1 ++ v.s2).extractLsb' 10 8 = (v.s0 ++ v.s1).extractLsb' 4 8 :=
    BitVec.extractLsb'_append_eq_of_le (by decide)
  rw [ext8_eq_fields, pck6_eq_append, Bytes3.mk.injEq]
  refine ⟨?first, ?second, ?third⟩
  case first =>
    have across := extractLsb'_append_across v.s0 v.s1 4 6 2 rfl
    rw [BitVec.extractLsb'_eq_self] at across
    exact (above_v3 16 8 (by decide)).trans (above_v2.trans across)
  case second =>
    rw [← extractLsb'_zero_append v.s0 v.s1 4 (by decide)]
    exact (above_v3 8 8 (by decide)).trans (extractLsb'_append_across (v.s0 ++ v.s1) v.s2 2 4 4 rfl)
  case third =>
    have across := extractLsb'_append_across (v.s0 ++ v.s1 ++ v.s2) v.s3 0 2 6 rfl
    rwa [extractLsb'_zero_append _ _ 2 (by decide), BitVec.extractLsb'_eq_self] at across

/-- Settles O28: the fields of `xtr6_cat3_eq` and `ext8_pck6_eq`, one by one. -/
theorem mixedWidthViewOfTheBlock : Obligations.MixedWidthViewOfTheBlock :=
  ⟨fun b => Sextets.mk.inj (xtr6_cat3_eq b), fun v => Bytes3.mk.inj (ext8_pck6_eq v)⟩

end Sys2Proof.Machine
end

section
/-! The codec of spec/30_encoding.md R62 and R65: a format whose reserved bits are zero is its operand fields put
together, so `encode` and `decode` undo each other. -/

namespace Sys2Proof

/-! ## Fields inside a lane -/

/-- A field inside lane `i` is a field of the payload. -/
theorem extractLsb'_lane (i : Fin 4) (w : Payload) (start len : Nat) (h : start + len ≤ 8) :
    (lane i w).extractLsb' start len = w.extractLsb' (24 - 8 * i.val + start) len := by
  ext j hj
  simp only [lane, BitVec.getElem_extractLsb', BitVec.getLsbD_extractLsb', show start + j < 8 by omega, decide_true,
    Bool.true_and, Nat.add_assoc]

/-- A word whose reserved high bits are zero is its low field, zero-extended. -/
theorem zero_append_lowField {m n : Nat} (w : BitVec (m + n)) (h : w.extractLsb' n m = 0#m) :
    0#m ++ w.extractLsb' 0 n = w := by
  rw [← h]
  exact BitVec.extractLsb'_append_extractLsb'

/-- R67 for PCK6, lane by lane: the high two bits of each lane are zero. -/
theorem reserved_op1_iff_lanes (w : Payload) :
    w &&& 0xC0C0C0C0#32 = 0#32 ↔ (lane 0 w).extractLsb' 6 2 = 0#2 ∧ (lane 1 w).extractLsb' 6 2 = 0#2 ∧
      (lane 2 w).extractLsb' 6 2 = 0#2 ∧ (lane 3 w).extractLsb' 6 2 = 0#2 := by
  have high_bits (i : Fin 4) := extractLsb'_lane i w 6 2 (by decide)
  rw [high_bits, high_bits, high_bits, high_bits]
  exact reserved_op1 w

theorem high_bits_of_lane_eq {i : Fin 4} {w : Payload} {v : Sextet} (h : lane i w = sextetLane v) :
    (lane i w).extractLsb' 6 2 = 0#2 := by
  rw [h]
  exact BitVec.extractLsb'_append_eq_left

theorem laneSextet_of_lane_eq {i : Fin 4} {w : Payload} {v : Sextet} (h : lane i w = sextetLane v) :
    laneSextet i w = v := by
  rw [laneSextet, h]
  exact BitVec.extractLsb'_append_eq_right

theorem sextetLane_laneSextet {i : Fin 4} {w : Payload} (h : (lane i w).extractLsb' 6 2 = 0#2) :
    sextetLane (laneSextet i w) = lane i w :=
  zero_append_lowField (m := 2) (n := 6) (lane i w) h

/-- The pad field of format E is the low two bits of lane 0. -/
theorem padFieldOf_eq_lane (w : Payload) : padFieldOf w = (lane 0 w).extractLsb' 0 2 :=
  (extractLsb'_lane 0 w 0 2 (by decide)).symm

/-- R67 for ENC3: the high six bits of lane 0 are zero. -/
theorem reserved_op4_iff_lane (w : Payload) : w &&& 0xFC000000#32 = 0#32 ↔ (lane 0 w).extractLsb' 2 6 = 0#6 := by
  rw [reserved_op4, extractLsb'_lane 0 w 2 6 (by decide)]
  rfl

/-- Format E as lanes: the reserved bits and the pad count share lane 0. -/
theorem encode_enc3_eq_lanes (pad : PadField) (b0 b1 b2 : Byte) :
    encode (.enc3 pad b0 b1 b2) = requestWord 4#3 (lanes (0#6 ++ pad) b0 b1 b2) := rfl

/-- A request word is an opcode and a payload. -/
theorem exists_requestWord (r : Request) : ∃ op w, r = requestWord op w :=
  ⟨opOf r, payloadOf r, (requestWord_eta r).symm⟩

/-! ## The two round trips -/

theorem decode_encode (i : Instr) (h : i.wellFormed = true) : decode (encode i) = .ok i := by
  cases i with
  | xtr6 blk =>
    rw [encode, decode_op0, if_pos ((reserved_op0 _).mpr BitVec.extractLsb'_append_eq_left),
      BitVec.extractLsb'_append_eq_right]
  | pck6 v0 v1 v2 v3 =>
    obtain ⟨h0, h1, h2, h3⟩ := lane_lanes (sextetLane v0) (sextetLane v1) (sextetLane v2) (sextetLane v3)
    have hreserved := (reserved_op1_iff_lanes _).mpr
      ⟨high_bits_of_lane_eq h0, high_bits_of_lane_eq h1, high_bits_of_lane_eq h2, high_bits_of_lane_eq h3⟩
    rw [encode, decode_op1, if_pos hreserved, laneSextet_of_lane_eq h0, laneSextet_of_lane_eq h1,
      laneSextet_of_lane_eq h2, laneSextet_of_lane_eq h3]
  | alut s =>
    rw [encode, decode_op2, if_pos ((reserved_op2 _).mpr BitVec.extractLsb'_append_eq_left),
      BitVec.extractLsb'_append_eq_right]
  | rlut c =>
    have hlane : lane 3 (0#24 ++ c) = c := BitVec.extractLsb'_append_eq_right
    rw [encode, decode_op3, if_pos ((reserved_op3 _).mpr BitVec.extractLsb'_append_eq_left), hlane]
  | enc3 pad b0 b1 b2 =>
    have hpad : pad ≠ 3#2 := by simpa only [Instr.wellFormed, bne_iff_ne] using h
    obtain ⟨h0, h1, h2, h3⟩ := lane_lanes (0#6 ++ pad) b0 b1 b2
    have hfield : padFieldOf (lanes (0#6 ++ pad) b0 b1 b2) = pad := by
      rw [padFieldOf_eq_lane, h0]
      exact BitVec.extractLsb'_append_eq_right
    have hreserved := (reserved_op4_iff_lane (lanes (0#6 ++ pad) b0 b1 b2)).mpr
      (by rw [h0]; exact BitVec.extractLsb'_append_eq_left)
    rw [encode_enc3_eq_lanes, decode_op4, if_pos hreserved, hfield, if_neg hpad, h1, h2, h3]
  | dec4 c0 c1 c2 c3 =>
    obtain ⟨h0, h1, h2, h3⟩ := lane_lanes c0 c1 c2 c3
    rw [encode, decode_op5, h0, h1, h2, h3]

theorem encode_of_decode (r : Request) (i : Instr) (h : decode r = .ok i) : encode i = r ∧ i.wellFormed = true := by
  obtain ⟨op, w, rfl⟩ := exists_requestWord r
  rcases op_cases op with rfl | rfl | rfl | rfl | rfl | rfl | rfl | rfl
  · rw [decode_op0] at h
    split at h <;> cases h
    next hreserved =>
      have hw : 0#8 ++ w.extractLsb' 0 24 = w :=
        zero_append_lowField (m := 8) (n := 24) w ((reserved_op0 w).mp hreserved)
      exact ⟨congrArg (requestWord 0#3) hw, rfl⟩
  · rw [decode_op1] at h
    split at h <;> cases h
    next hreserved =>
      obtain ⟨h0, h1, h2, h3⟩ := (reserved_op1_iff_lanes w).mp hreserved
      rw [encode, sextetLane_laneSextet h0, sextetLane_laneSextet h1, sextetLane_laneSextet h2,
        sextetLane_laneSextet h3, lanes_eta]
      exact ⟨rfl, rfl⟩
  · rw [decode_op2] at h
    split at h <;> cases h
    next hreserved =>
      have hw : 0#26 ++ w.extractLsb' 0 6 = w :=
        zero_append_lowField (m := 26) (n := 6) w ((reserved_op2 w).mp hreserved)
      exact ⟨congrArg (requestWord 2#3) hw, rfl⟩
  · rw [decode_op3] at h
    split at h <;> cases h
    next hreserved =>
      have hw : 0#24 ++ lane 3 w = w :=
        zero_append_lowField (m := 24) (n := 8) w ((reserved_op3 w).mp hreserved)
      exact ⟨congrArg (requestWord 3#3) hw, rfl⟩
  · rw [decode_op4] at h
    split at h
    next hreserved =>
      split at h <;> cases h
      next hpad =>
        have hlane : 0#6 ++ padFieldOf w = lane 0 w := by
          rw [padFieldOf_eq_lane]
          exact zero_append_lowField (m := 6) (n := 2) (lane 0 w) ((reserved_op4_iff_lane w).mp hreserved)
        rw [encode_enc3_eq_lanes, hlane, lanes_eta]
        exact ⟨rfl, bne_iff_ne.mpr hpad⟩
    next => cases h
  · rw [decode_op5] at h
    cases h
    rw [encode, lanes_eta]
    exact ⟨rfl, rfl⟩
  · cases (decode_op6 w).symm.trans h
  · cases (decode_op7 w).symm.trans h

/-- Settles O1: the operands are the fields of the word, the reserved bits are zero. -/
theorem decodeInvertsEncode : Obligations.DecodeInvertsEncode := decode_encode

/-- Settles O2: where the reserved bits are zero, the operand fields are all of the payload. -/
theorem encodeInvertsDecode : Obligations.EncodeInvertsDecode := encode_of_decode

end Sys2Proof
end

section
/-! Which request words are commands (R66 to R69, R74), by their fields; the rows of
spec/opcode_table.json say the same. -/

namespace Sys2Proof

open Sys2Proof.Spec

/-! ## Opcodes -/

/-- The opcode of a mnemonic (R65). -/
def Mnemonic.opcode : Mnemonic → BitVec 3
  | .XTR6 => 0#3
  | .PCK6 => 1#3
  | .ALUT => 2#3
  | .RLUT => 3#3
  | .ENC3 => 4#3
  | .DEC4 => 5#3

/-- No two commands share an opcode. -/
theorem opcode_inj_iff (m n : Mnemonic) : m.opcode = n.opcode ↔ m = n := by
  cases m <;> cases n <;> decide

theorem opOf_encode (i : Instr) : opOf (encode i) = i.mnemonic.opcode := by
  cases i <;> exact opOf_requestWord _ _

theorem opOf_of_decode (r : Request) (i : Instr) (h : decode r = .ok i) : opOf r = i.mnemonic.opcode := by
  obtain ⟨rfl, -⟩ := encode_of_decode r i h
  exact opOf_encode i

/-! ## Legal words -/

/-- Every operand field is one of a command, unless the opcode or the pad count is reserved (R66, R68). -/
theorem exists_operandsOf_iff (op : BitVec 3) (w : Payload) :
    (∃ i, operandsOf op w = .ok i) ↔ op.toNat < 6 ∧ ¬ (op = 4#3 ∧ padFieldOf w = 3#2) := by
  by_cases henc3 : op = 4#3
  · subst henc3
    by_cases hpad : padFieldOf w = 3#2 <;> simp [operandsOf, hpad]
  · rcases op_cases op with rfl | rfl | rfl | rfl | rfl | rfl | rfl | rfl <;> simp [operandsOf] at henc3 ⊢

/-- `decode` tests the reserved bits first. -/
theorem decode_eq_ok_iff (r : Request) (i : Instr) : decode r = .ok i ↔
    payloadOf r &&& reservedMask (opOf r) = 0#32 ∧ operandsOf (opOf r) (payloadOf r) = .ok i := by
  rw [decode]
  split
  next h => exact ⟨fun hi => ⟨h, hi⟩, And.right⟩
  next h => exact ⟨(nomatch ·), fun hi => absurd hi.1 h⟩

/-- A field of the payload is the same field of the request word. -/
theorem extractLsb'_payloadOf (r : Request) (start len : Nat) (h : start + len ≤ 32) :
    (payloadOf r).extractLsb' start len = r.extractLsb' start len :=
  BitVec.extractLsb'_extractLsb'_of_le h

/-- R67's reserved bits, field by field, are those of the mask of the opcode. -/
theorem reservedBitSet_iff (r : Request) : reservedBitSet r ↔ payloadOf r &&& reservedMask (opOf r) ≠ 0#32 := by
  have hop : r.extractLsb' 32 3 = opOf r := rfl
  have hfield (start len : Nat) (h : start + len ≤ 32) :
      r.extractLsb' start len = (payloadOf r).extractLsb' start len := (extractLsb'_payloadOf r start len h).symm
  rw [reservedBitSet, hop, hfield 24 8 (by decide), hfield 30 2 (by decide), hfield 22 2 (by decide),
    hfield 14 2 (by decide), hfield 6 2 (by decide), hfield 6 26 (by decide), hfield 8 24 (by decide),
    hfield 26 6 (by decide)]
  simp only [ne_eq, ← not_and_or, ← reserved_op0, ← reserved_op1, ← reserved_op2, ← reserved_op3, ← reserved_op4]
  rcases op_cases (opOf r) with h | h | h | h | h | h | h | h <;> simp [h, reservedMask]

theorem reservedPadSet_iff (r : Request) : reservedPadSet r ↔ opOf r = 4#3 ∧ padFieldOf (payloadOf r) = 3#2 := by
  rw [padFieldOf, extractLsb'_payloadOf r 24 2 (by decide)]
  rfl

/-- R74: a request word is a command unless its opcode, a payload bit or its pad count is reserved. -/
theorem exists_decode_iff (r : Request) :
    (∃ i, decode r = .ok i) ↔ (opOf r).toNat < 6 ∧ ¬ reservedBitSet r ∧ ¬ reservedPadSet r := by
  simp only [decode_eq_ok_iff, exists_and_left, exists_operandsOf_iff, reservedBitSet_iff, reservedPadSet_iff, not_not]
  exact and_left_comm

/-! ## The rows of spec/opcode_table.json -/

/-- What a row's mask and value say: the opcode field whole, and the reserved bits of that opcode zero. -/
theorem opTable_fields : ∀ row ∈ opTable,
    opOf row.mask = 7#3 ∧ opOf row.value = row.mnemonic.opcode ∧
    payloadOf row.mask = reservedMask row.mnemonic.opcode ∧ payloadOf row.value = 0#32 ∧
    (row.mnemonic = .ENC3 → row.exMask = 0x003000000#35) := by
  decide

theorem covers_iff (row : OpRow) (r : Request) : row.covers r = true ↔
    r &&& row.mask = row.value ∧ (row.exMask = 0#35 ∨ r &&& row.exMask ≠ row.exMask) := by
  simp only [OpRow.covers, Bool.and_eq_true, Bool.or_eq_true, beq_iff_eq, bne_iff_ne]

/-- A word of a row has the row's opcode. -/
theorem opOf_of_covers (row : OpRow) (r : Request) (hrow : row ∈ opTable) (h : row.covers r = true) :
    opOf r = row.mnemonic.opcode := by
  obtain ⟨hmask, hvalue, -⟩ := opTable_fields row hrow
  obtain ⟨hmatch, -⟩ := (covers_iff row r).mp h
  have hop : opOf r &&& opOf row.mask = opOf row.value := hmatch ▸ BitVec.extractLsb'_and.symm
  rw [hmask, hvalue] at hop
  exact BitVec.and_allOnes.symm.trans hop

/-- A word of a row has the reserved bits of its opcode zero. -/
theorem reserved_zero_of_covers (row : OpRow) (r : Request) (hrow : row ∈ opTable) (h : row.covers r = true) :
    payloadOf r &&& reservedMask (opOf r) = 0#32 := by
  obtain ⟨-, -, hmask, hvalue, -⟩ := opTable_fields row hrow
  obtain ⟨hmatch, -⟩ := (covers_iff row r).mp h
  rw [opOf_of_covers row r hrow h, ← hmask, ← hvalue, ← hmatch]
  exact BitVec.extractLsb'_and.symm

/-- The excluded words of ENC3's row are those with `pad = 3`. -/
theorem and_padMask_of_padFieldOf (r : Request) (h : padFieldOf (payloadOf r) = 3#2) :
    r &&& 0x003000000#35 = 0x003000000#35 := by
  rw [padFieldOf, extractLsb'_payloadOf r 24 2 (by decide)] at h
  have h24 : r.getLsbD 24 = true := by simpa using congrArg (·.getLsbD 0) h
  have h25 : r.getLsbD 25 = true := by simpa using congrArg (·.getLsbD 1) h
  have hmask : ∀ i : Fin 35, (0x003000000#35).getLsbD i.val = true ↔ i.val = 24 ∨ i.val = 25 := by decide
  refine BitVec.eq_of_getLsbD_eq fun i hi => ?_
  rw [BitVec.getLsbD_and, Bool.and_eq_right_iff_imp, hmask ⟨i, hi⟩]
  rintro (rfl | rfl)
  · exact h24
  · exact h25

theorem exists_decode_of_covers (row : OpRow) (r : Request) (hrow : row ∈ opTable) (h : row.covers r = true) :
    ∃ i, decode r = .ok i := by
  have hop := opOf_of_covers row r hrow h
  have hlegal : ∀ m : Mnemonic, m.opcode.toNat < 6 := fun m => by cases m <;> decide
  rw [exists_decode_iff, reservedBitSet_iff, reservedPadSet_iff, not_not]
  refine ⟨hop ▸ hlegal _, reserved_zero_of_covers row r hrow h, fun ⟨hop4, hpad⟩ => ?_⟩
  obtain ⟨-, -, -, -, hexcluded⟩ := opTable_fields row hrow
  obtain ⟨-, hex⟩ := (covers_iff row r).mp h
  rw [hexcluded ((opcode_inj_iff _ .ENC3).mp (hop.symm.trans hop4))] at hex
  rcases hex with hnone | hex
  · exact absurd hnone (by decide)
  · exact hex (and_padMask_of_padFieldOf r hpad)

/-- The encoding of a well-formed command lies in the row of its mnemonic (the lemmas of Laws/PerInstr, together). -/
theorem exists_row_covers_encode (i : Instr) (h : i.wellFormed = true) :
    ∃ row ∈ opTable, row.mnemonic = i.mnemonic ∧ row.covers (encode i) = true := by
  cases i with
  | xtr6 blk => exact Laws.EncodeMatchesRow.xtr6 blk h
  | pck6 v0 v1 v2 v3 => exact Laws.EncodeMatchesRow.pck6 v0 v1 v2 v3 h
  | alut s => exact Laws.EncodeMatchesRow.alut s h
  | rlut c => exact Laws.EncodeMatchesRow.rlut c h
  | enc3 pad b0 b1 b2 => exact Laws.EncodeMatchesRow.enc3 pad b0 b1 b2 h
  | dec4 c0 c1 c2 c3 => exact Laws.EncodeMatchesRow.dec4 c0 c1 c2 c3 h

theorem opTable_mnemonic_injective :
    ∀ row ∈ opTable, ∀ row' ∈ opTable, row.mnemonic = row'.mnemonic → row = row' := by decide

/-- Settles O3: a word of a row decodes because the row's mask is that of the opcode and the reserved bits; a word that
decodes is the encoding of its command, so it lies in its command's row, and in no other since its opcode is one. -/
theorem decodeAgreesWithOpcodeTable : Obligations.DecodeAgreesWithOpcodeTable := by
  refine ⟨fun r ⟨row, hrow, h⟩ => exists_decode_of_covers row r hrow h, fun r i hdecode row hrow => ?_, rfl⟩
  constructor
  · intro h
    rw [← opcode_inj_iff, ← opOf_of_covers row r hrow h]
    exact opOf_of_decode r i hdecode
  · intro hmnemonic
    obtain ⟨rfl, hwf⟩ := encode_of_decode r i hdecode
    obtain ⟨row', hrow', hmnemonic', hcovers⟩ := exists_row_covers_encode i hwf
    obtain rfl := opTable_mnemonic_injective row hrow row' hrow' (hmnemonic.trans hmnemonic'.symm)
    exact hcovers

end Sys2Proof
end

section
/-! The response word (spec/30_encoding.md R63, R64, R75) and what each command can answer (R74, R190 to R194). -/

namespace Sys2Proof.Machine

open Sys2Proof.Spec

/-! ## Layout and reading back -/

theorem toWord_toNat (x : Response) :
    x.toWord.toNat = x.status.code.toNat * 2 ^ 34 + x.count.toNat * 2 ^ 32 + x.payload.toNat := by
  simp only [Response.toWord, toNat_append_eq_add]
  omega

theorem ofWord_toWord (x : Response) : Response.ofWord x.toWord = some x := by
  simp only [Response.ofWord, statusField_toWord, countField_toWord, rspPayload_toWord, status_ofCode_code]

/-- R190: codes 5 to 7 are no status. -/
theorem ofCode_eq_none_iff (k : BitVec 3) : Status.ofCode k = none ↔ 5 ≤ k.toNat := by
  revert k; decide

theorem ofWord_eq_none_iff (w : ResponseWord) : Response.ofWord w = none ↔ 5 ≤ (statusField w).toNat := by
  rw [← ofCode_eq_none_iff, Response.ofWord]
  cases Status.ofCode (statusField w) <;> simp only [reduceCtorEq]

/-- Settles O12: the word is three fields put together, and reading takes them apart again. -/
theorem responseWordLayout : Obligations.ResponseWordLayout :=
  ⟨toWord_toNat, ofWord_toWord, fun w => (ofWord_eq_none_iff w).symm, rfl, rfl, rfl, rfl, rfl⟩

/-! ## What a command can answer -/

/-- The responses a command can have, with the commands that can have them (R64, R74, R134). -/
inductive Answers (i : Instr) : Response → Prop
  /-- A result of fixed length: count 0. -/
  | result (payload : Payload) : Answers i (okResponse 0#2 payload)
  /-- The bytes that DEC4 keeps, with their count. -/
  | bytes (pad : PadField) (d : Bytes3) : Answers i (okResponse (drop pad d).1 (bytesPayload (drop pad d).2))
  | invalidCharacter (h : i.mnemonic = .RLUT ∨ i.mnemonic = .DEC4) : Answers i (errorResponse .invalidCharacter)
  | misplacedPadding (h : i.mnemonic = .DEC4) : Answers i (errorResponse .misplacedPadding)
  | illegalCommand (h : i.wellFormed = false) : Answers i (errorResponse .illegalCommand)

theorem answers_responseOf (i : Instr) : Answers i (responseOf i) := by
  cases i with
  | xtr6 blk => exact .result _
  | pck6 v0 v1 v2 v3 => exact .result _
  | alut s => exact .result _
  | rlut c =>
    rw [responseOf]
    cases rlut c with
    | value v => exact .result _
    | pad => exact .result _
    | invalid => exact .invalidCharacter (.inl rfl)
  | enc3 pad b0 b1 b2 =>
    rw [responseOf]
    split
    next hpad => exact .illegalCommand (hpad ▸ rfl)
    next => exact .result _
  | dec4 c0 c1 c2 c3 =>
    rw [responseOf]
    split
    next => exact .invalidCharacter (.inr rfl)
    next =>
      cases padcls (rlut c0).isPad (rlut c1).isPad (rlut c2).isPad (rlut c3).isPad with
      | misplaced => exact .misplacedPadding rfl
      | count pad => exact .bytes pad _

theorem Answers.ok_or_error {i : Instr} {x : Response} (h : Answers i x) :
    x.status = .ok ∨ ∃ st, x = errorResponse st := by
  cases h with
  | result | bytes => exact .inl rfl
  | invalidCharacter | misplacedPadding | illegalCommand => exact .inr ⟨_, rfl⟩

/-- R75: a response is an `OK` response or carries its status alone. -/
theorem responseTo_ok_or_error (r : Request) :
    (responseTo r).status = .ok ∨ ∃ st, responseTo r = errorResponse st := by
  cases hdecode : decode r with
  | error e => exact .inr ⟨_, responseTo_of_error r e hdecode⟩
  | ok i =>
    rw [responseTo_of_ok r i hdecode]
    exact (answers_responseOf i).ok_or_error

@[simp] theorem errorResponse_status (st : Status) : (errorResponse st).status = st := rfl
@[simp] theorem errorResponse_count (st : Status) : (errorResponse st).count = 0#2 := rfl
@[simp] theorem errorResponse_payload (st : Status) : (errorResponse st).payload = 0#32 := rfl

theorem errorResponse_toWord_toNat (st : Status) : (errorResponse st).toWord.toNat = st.code.toNat <<< 34 := by
  simp [toWord_toNat, Nat.shiftLeft_eq]

/-- Settles O11: a response that is not `OK` is an error response, whose other fields are zero. -/
theorem errorResponsesCarryOnlyTheStatus : Obligations.ErrorResponsesCarryOnlyTheStatus := by
  intro s r rest hpending
  refine ⟨(responseTo r).toWord, step_of_cons s r rest hpending, fun hstatus => ?_⟩
  rw [statusField_toWord] at hstatus ⊢
  rcases responseTo_ok_or_error r with hok | ⟨st, herror⟩
  · exact absurd (congrArg Status.code hok) hstatus
  · rw [herror, countField_toWord, rspPayload_toWord]
    exact ⟨rfl, rfl, errorResponse_toWord_toNat st⟩

/-! ## The invariant of the delivered words -/

theorem legalResponse_result (payload : Payload) : legalResponse (okResponse 0#2 payload).toWord = true := by
  simp [legalResponse, statusField_toWord, countField_toWord, okResponse, Status.code]

/-- R134: the lanes of the bytes that `drop` does not keep are zero. -/
theorem legalResponse_bytes (pad : PadField) (d : Bytes3) :
    legalResponse (okResponse (drop pad d).1 (bytesPayload (drop pad d).2)).toWord = true := by
  obtain ⟨h0, -, h2, h3⟩ := lane_lanes 0#8 (drop pad d).2.o0 (drop pad d).2.o1 (drop pad d).2.o2
  simp only [legalResponse, statusField_toWord, countField_toWord, rspPayload_toWord, okResponse, bytesPayload,
    h0, h2, h3]
  rw [drop]
  split <;> simp [Status.code]

theorem Answers.legal {i : Instr} {x : Response} (h : Answers i x) :
    legalResponse x.toWord = true := by
  cases h with
  | result payload => exact legalResponse_result payload
  | bytes pad d => exact legalResponse_bytes pad d
  | invalidCharacter | misplacedPadding | illegalCommand => rfl

theorem legalResponse_responseTo (r : Request) : legalResponse (responseTo r).toWord = true := by
  cases hdecode : decode r with
  | error e =>
    rw [responseTo_of_error r e hdecode]
    rfl
  | ok i =>
    rw [responseTo_of_ok r i hdecode]
    exact (answers_responseOf i).legal

/-- Settles O14: a step adds at most the response to one request word (`step_cases`), and that is legal. -/
theorem stepKeepsResponsesLegal : Obligations.StepKeepsResponsesLegal := by
  intro s t hinv hstep
  rcases step_cases s t hstep with ⟨-, rfl⟩ | ⟨r, rest, -, rfl⟩
  · exact hinv
  · intro w hw
    rcases List.mem_append.mp hw with hold | hnew
    · exact hinv w hold
    · obtain rfl := List.mem_singleton.mp hnew
      exact legalResponse_responseTo r

end Sys2Proof.Machine
end

section
/-! The three outcomes of a request word (spec/30_encoding.md R66 to R68, R74), and DEC4 as a request word
(spec/42_group_codec.md R135). -/

namespace Sys2Proof.Machine

open Sys2Proof.Spec

/-! ## Words that are no command -/

/-- The answer of R66 to R68. -/
theorem answer_illegalCommand (s : State) : answer (errorResponse .illegalCommand) s = answered s (rsp 4 0 0) := rfl

/-- R74: a word that is no command is answered `IllegalCommand`, and nothing else changes. -/
theorem step_of_not_command (s : State) (r : Request) (rest : List Request) (hpending : s.pending = r :: rest)
    (h : ¬ ∃ i, decode r = .ok i) : step s = .next (answered { s with pending := rest } (rsp 4 0 0)) := by
  cases hdecode : decode r with
  | ok i => exact absurd ⟨i, hdecode⟩ h
  | error e => rw [step_of_cons s r rest hpending, responseTo_of_error r e hdecode, answer_illegalCommand]

/-- Every word with op 5 is DEC4 of its four lanes (R62). -/
theorem decode_of_op5 (r : Request) (hop : r.extractLsb' 32 3 = 5#3) : decode r =
    .ok (.dec4 (r.extractLsb' 24 8) (r.extractLsb' 16 8) (r.extractLsb' 8 8) (r.extractLsb' 0 8)) := by
  have hr : requestWord 5#3 (payloadOf r) = r := hop ▸ requestWord_eta r
  have hlane (i : Fin 4) : lane i (payloadOf r) = r.extractLsb' (24 - 8 * i.val) 8 :=
    extractLsb'_payloadOf r _ 8 (by omega)
  have hdecode := decode_op5 (payloadOf r)
  rw [hr, hlane, hlane, hlane, hlane] at hdecode
  exact hdecode

/-- Settles O6: a reserved word is no command, a word with op 5 is one, and ENC3 tests its pad count itself. -/
theorem reservedEncodingsAnswerIllegalCommand : Obligations.ReservedEncodingsAnswerIllegalCommand := by
  refine ⟨fun s r rest hpending hreserved => ?word, fun r hop => ⟨_, decode_of_op5 r hop⟩, fun b0 b1 b2 s => ?enc3⟩
  case word =>
    refine step_of_not_command s r rest hpending fun hcommand => ?_
    obtain ⟨hop, hbits, hpad⟩ := (exists_decode_iff r).mp hcommand
    rcases hreserved with h6 | h7 | h | h
    · exact absurd hop (by rw [opOf, h6]; decide)
    · exact absurd hop (by rw [opOf, h7]; decide)
    · exact hbits h
    · exact hpad h
  case enc3 => rw [exec_eq, responseOf, if_pos rfl, answer_illegalCommand]

/-! ## Words that are a command -/

/-- R74: which statuses the commands that a word holds can answer. -/
theorem Answers.statusField_cases {i : Instr} {x : Response} (h : Answers i x) (hwf : i.wellFormed = true) :
    statusField x.toWord = 0#3 ∨
    (statusField x.toWord = 2#3 ∧ (i.mnemonic = .RLUT ∨ i.mnemonic = .DEC4)) ∨
    (statusField x.toWord = 3#3 ∧ i.mnemonic = .DEC4) := by
  rw [statusField_toWord]
  cases h with
  | result | bytes => exact .inl rfl
  | invalidCharacter hm => exact .inr (.inl ⟨rfl, hm⟩)
  | misplacedPadding hm => exact .inr (.inr ⟨rfl, hm⟩)
  | illegalCommand hill => exact absurd (hill.symm.trans hwf) Bool.false_ne_true

/-- Settles O5: `exists_decode_iff` tells the three kinds apart, and `Answers` says what a command can answer. -/
theorem everyRequestWordHasOneOfThreeOutcomes : Obligations.EveryRequestWordHasOneOfThreeOutcomes := by
  intro s r rest hpending
  refine ⟨fun hop => ?opcode, fun _ hreserved => ?reserved, fun hop hbits hpad => ?command⟩
  case opcode =>
    exact step_of_not_command s r rest hpending fun hcommand =>
      absurd ((exists_decode_iff r).mp hcommand).1 (Nat.not_lt.mpr hop)
  case reserved =>
    refine step_of_not_command s r rest hpending fun hcommand => ?_
    obtain ⟨-, hbits, hpad⟩ := (exists_decode_iff r).mp hcommand
    exact hreserved.elim hbits hpad
  case command =>
    obtain ⟨i, hdecode⟩ := (exists_decode_iff r).mpr ⟨hop, hbits, hpad⟩
    have hstep : step s = exec i { s with pending := rest } := stepRunsDecodedCommand.1 s r rest i hpending hdecode
    refine ⟨i, (responseOf i).toWord, hdecode, hstep, hstep.trans (exec_eq i _), ?_⟩
    have hopcode (m : Mnemonic) (hm : i.mnemonic = m) : r.extractLsb' 32 3 = m.opcode :=
      hm ▸ opOf_of_decode r i hdecode
    obtain ⟨-, hwf⟩ := encode_of_decode r i hdecode
    rcases (answers_responseOf i).statusField_cases hwf with hok | ⟨hinvalid, hm⟩ | ⟨hmisplaced, hm⟩
    · exact .inl hok
    · exact .inr (.inl ⟨hinvalid, hm.imp (hopcode _) (hopcode _)⟩)
    · exact .inr (.inr ⟨hmisplaced, hopcode _ hm⟩)

/-! ## DEC4's corner cases -/

/-- Settles O41: the step executes what `decode_of_op5` says; the corner cases are words of R135, evaluated. -/
theorem dec4CommandCornerCases : Obligations.Dec4CommandCornerCases :=
  ⟨fun s r rest hpending hop => stepRunsDecodedCommand.1 s r rest _ hpending (decode_of_op5 r hop), by decide,
    List.map_eq_replicate_iff.mp (by decide), List.map_eq_replicate_iff.mp (by decide)⟩

end Sys2Proof.Machine
end

section
/-! The assembler of spec/30_encoding.md R72: what it accepts, operand by operand and mnemonic by mnemonic. -/

namespace Sys2Proof.Machine

/-! ## Operands -/

theorem field_num_eq_some_iff (w n : Nat) (v : BitVec w) :
    (AsmOperand.num n).field w = some v ↔ n < 2 ^ w ∧ BitVec.ofNat w n = v := by
  rw [AsmOperand.field, Option.ite_none_right_eq_some, Option.some.injEq]

theorem field_toNat {w : Nat} (v : BitVec w) : (AsmOperand.num v.toNat).field w = some v :=
  (field_num_eq_some_iff w v.toNat v).mpr ⟨v.isLt, by rw [BitVec.ofNat_toNat, BitVec.setWidth_eq]⟩

theorem lt_of_field_num {w n : Nat} {v : BitVec w} (h : (AsmOperand.num n).field w = some v) : n < 2 ^ w :=
  ((field_num_eq_some_iff w n v).mp h).1

theorem byte_toNat (c : Byte) : (AsmOperand.num c.toNat).byte = some c := field_toNat c

theorem lt_of_byte_num {n : Nat} {c : Byte} (h : (AsmOperand.num n).byte = some c) : n < 2 ^ 8 :=
  lt_of_field_num (w := 8) h

theorem padCount_eq_some_iff (x : AsmOperand) (p : PadField) : x.padCount = some p ↔ x.field 2 = some p ∧ p ≠ 3#2 := by
  rw [AsmOperand.padCount]
  cases x.field 2 with
  | none => exact ⟨nofun, nofun⟩
  | some q =>
    simp only [Option.ite_none_left_eq_some, Option.some.injEq]
    exact ⟨fun ⟨hq, heq⟩ => ⟨heq, heq ▸ hq⟩, fun ⟨heq, hp⟩ => ⟨heq ▸ hp, heq⟩⟩

theorem lt_of_padCount_num {n : Nat} {p : PadField} (h : (AsmOperand.num n).padCount = some p) : n < 3 := by
  obtain ⟨hfield, hp⟩ := (padCount_eq_some_iff _ p).mp h
  obtain ⟨hn, rfl⟩ := (field_num_eq_some_iff 2 n p).mp hfield
  have h3 : n ≠ 3 := fun h => hp (h ▸ rfl)
  omega

/-! ## Mnemonics -/

/-- The commands a mnemonic and its operands stand for, by the operand ranges of R72. -/
inductive Assembles : Mnemonic → List AsmOperand → Instr → Prop
  | xtr6 {x v} (h : x.field 24 = some v) : Assembles .XTR6 [x] (.xtr6 v)
  | pck6 {x y z t v0 v1 v2 v3} (h0 : x.field 6 = some v0) (h1 : y.field 6 = some v1) (h2 : z.field 6 = some v2)
      (h3 : t.field 6 = some v3) : Assembles .PCK6 [x, y, z, t] (.pck6 v0 v1 v2 v3)
  | alut {x v} (h : x.field 6 = some v) : Assembles .ALUT [x] (.alut v)
  | rlut {x c} (h : x.byte = some c) : Assembles .RLUT [x] (.rlut c)
  | enc3 {x y z t p b0 b1 b2} (hpad : x.padCount = some p) (h0 : y.byte = some b0) (h1 : z.byte = some b1)
      (h2 : t.byte = some b2) : Assembles .ENC3 [x, y, z, t] (.enc3 p b0 b1 b2)
  | dec4Text (c0 c1 c2 c3 : Byte) : Assembles .DEC4 [.text [c0, c1, c2, c3]] (.dec4 c0 c1 c2 c3)
  | dec4 {x y z t c0 c1 c2 c3} (h0 : x.byte = some c0) (h1 : y.byte = some c1) (h2 : z.byte = some c2)
      (h3 : t.byte = some c3) : Assembles .DEC4 [x, y, z, t] (.dec4 c0 c1 c2 c3)

theorem assemble_eq_some_iff (m : Mnemonic) (xs : List AsmOperand) (i : Instr) :
    assemble m xs = some i ↔ Assembles m xs i := by
  constructor
  · intro h
    unfold assemble at h
    split at h
    all_goals simp only [Option.bind_eq_bind, Option.bind_eq_some_iff, Option.some.injEq, reduceCtorEq] at h
    · obtain ⟨v, hv, rfl⟩ := h
      exact .xtr6 hv
    · obtain ⟨v0, h0, v1, h1, v2, h2, v3, h3, rfl⟩ := h
      exact .pck6 h0 h1 h2 h3
    · obtain ⟨v, hv, rfl⟩ := h
      exact .alut hv
    · obtain ⟨c, hc, rfl⟩ := h
      exact .rlut hc
    · obtain ⟨p, hp, b0, h0, b1, h1, b2, h2, rfl⟩ := h
      exact .enc3 hp h0 h1 h2
    · exact h ▸ .dec4Text _ _ _ _
    · obtain ⟨c0, h0, c1, h1, c2, h2, c3, h3, rfl⟩ := h
      exact .dec4 h0 h1 h2 h3
  · intro h
    cases h <;> simp [assemble, *]

theorem Assembles.mnemonic_eq {m : Mnemonic} {xs : List AsmOperand} {i : Instr} (h : Assembles m xs i) :
    i.mnemonic = m := by
  cases h <;> rfl

/-- R72's ranges are those of well-formed commands: `pad = 3` is refused. -/
theorem Assembles.wellFormed {m : Mnemonic} {xs : List AsmOperand} {i : Instr} (h : Assembles m xs i) :
    i.wellFormed = true := by
  cases h with
  | enc3 hpad => exact bne_iff_ne.mpr ((padCount_eq_some_iff _ _).mp hpad).2
  | xtr6 | pck6 | alut | rlut | dec4Text | dec4 => rfl

/-- Every well-formed command is written with its operands' values. -/
theorem exists_assembles (i : Instr) (h : i.wellFormed = true) : ∃ xs, Assembles i.mnemonic xs i := by
  cases i with
  | xtr6 blk => exact ⟨_, .xtr6 (field_toNat blk)⟩
  | pck6 v0 v1 v2 v3 => exact ⟨_, .pck6 (field_toNat v0) (field_toNat v1) (field_toNat v2) (field_toNat v3)⟩
  | alut s => exact ⟨_, .alut (field_toNat s)⟩
  | rlut c => exact ⟨_, .rlut (byte_toNat c)⟩
  | enc3 pad b0 b1 b2 =>
    have hpad := (padCount_eq_some_iff _ pad).mpr ⟨field_toNat pad, bne_iff_ne.mp h⟩
    exact ⟨_, .enc3 hpad (byte_toNat b0) (byte_toNat b1) (byte_toNat b2)⟩
  | dec4 c0 c1 c2 c3 => exact ⟨_, .dec4Text c0 c1 c2 c3⟩

/-- R194: the word of a well-formed command is never answered `IllegalCommand`. -/
theorem issue_encode_ne_illegalCommand (i : Instr) (h : i.wellFormed = true) :
    statusField (issue (encode i)) ≠ 4#3 := by
  rw [issue_eq, responseTo_of_ok _ i (decode_encode i h)]
  rcases (answers_responseOf i).statusField_cases h with hstatus | ⟨hstatus, -⟩ | ⟨hstatus, -⟩ <;>
    rw [hstatus] <;> decide

/-! ## Operands out of range -/

/-- Operands that are those of no command are refused. -/
theorem assemble_eq_none {m : Mnemonic} {xs : List AsmOperand} (h : ∀ i, ¬ Assembles m xs i) : assemble m xs = none :=
  Option.eq_none_iff_forall_ne_some.mpr fun i hi => h i ((assemble_eq_some_iff m xs i).mp hi)

theorem lt_of_mem_four {x y z t n bound : Nat} (hx : x < bound) (hy : y < bound) (hz : z < bound) (ht : t < bound)
    (h : n ∈ [x, y, z, t]) : n < bound := by
  simp only [List.mem_cons, List.not_mem_nil, or_false] at h
  omega

/-- Settles O7: what is assembled is well-formed and so decodes; a number out of range is the value of no field. -/
theorem assembledCommandsAreLegal : Obligations.AssembledCommandsAreLegal := by
  refine ⟨fun m xs i h => ?legal, fun n hn => ?xtr6, fun n hn => ?alut, fun n hn => ?rlut,
    fun x y z t n hn hmem => ?pck6, fun p x y z hrange => ?enc3, fun x y z t n hn hmem => ?dec4, fun i h => ?written⟩
  case legal =>
    have hi := (assemble_eq_some_iff m xs i).mp h
    exact ⟨hi.mnemonic_eq, decode_encode i hi.wellFormed, issue_encode_ne_illegalCommand i hi.wellFormed⟩
  case xtr6 =>
    refine assemble_eq_none fun i hi => ?_
    cases hi with
    | xtr6 h => exact absurd (lt_of_field_num h) (Nat.not_lt.mpr hn)
  case alut =>
    refine assemble_eq_none fun i hi => ?_
    cases hi with
    | alut h => exact absurd (lt_of_field_num h) (Nat.not_lt.mpr hn)
  case rlut =>
    refine assemble_eq_none fun i hi => ?_
    cases hi with
    | rlut h => exact absurd (lt_of_byte_num h) (Nat.not_lt.mpr hn)
  case pck6 =>
    refine assemble_eq_none fun i hi => ?_
    cases hi with
    | pck6 h0 h1 h2 h3 =>
      have hlt := lt_of_mem_four (lt_of_field_num h0) (lt_of_field_num h1) (lt_of_field_num h2) (lt_of_field_num h3)
        hmem
      exact absurd hlt (Nat.not_lt.mpr hn)
  case enc3 =>
    refine assemble_eq_none fun i hi => ?_
    cases hi with
    | enc3 hpad h0 h1 h2 =>
      have hp := lt_of_padCount_num hpad
      have hx := lt_of_byte_num h0
      have hy := lt_of_byte_num h1
      have hz := lt_of_byte_num h2
      omega
  case dec4 =>
    refine assemble_eq_none fun i hi => ?_
    cases hi with
    | dec4 h0 h1 h2 h3 =>
      have hlt := lt_of_mem_four (lt_of_byte_num h0) (lt_of_byte_num h1) (lt_of_byte_num h2) (lt_of_byte_num h3) hmem
      exact absurd hlt (Nat.not_lt.mpr hn)
  case written =>
    obtain ⟨xs, hxs⟩ := exists_assembles i h
    exact ⟨xs, (assemble_eq_some_iff _ xs i).mpr hxs⟩

end Sys2Proof.Machine
end

section
/-! The responses of XTR6 and PCK6 (spec/41_sextet_datapath.md R111, R112, R114, R115) as numbers: lanes and blocks are
sums, a field of a block is a shift and a mask. -/

namespace Sys2Proof.Machine

open Sys2Proof.Spec

theorem lanes_toNat (x0 x1 x2 x3 : Byte) :
    (lanes x0 x1 x2 x3).toNat = lanes4 x0.toNat x1.toNat x2.toNat x3.toNat := by
  simp only [lanes, lanes4, toNat_append_eq_add]
  omega

theorem sextetLane_toNat (v : Sextet) : (sextetLane v).toNat = v.toNat := by
  rw [sextetLane, toNat_append_eq_add, BitVec.toNat_ofNat, Nat.zero_mod, Nat.zero_mul, Nat.zero_add]

/-- R111: cutting out the sextet `i` of a block is a shift and a mask. -/
theorem sextetField_toNat (blk : Block) (i : Nat) : (blk.extractLsb' (18 - 6 * i) 6).toNat = sextetAt blk.toNat i :=
  (Nat.and_two_pow_sub_one_eq_mod _ 6).symm

theorem sextetPayload_toNat (s : Sextets) :
    (sextetPayload s).toNat = lanes4 s.s0.toNat s.s1.toNat s.s2.toNat s.s3.toNat := by
  simp only [sextetPayload, lanes_toNat, sextetLane_toNat]

theorem pck6_toNat (v : Sextets) :
    (pck6 v).toNat = blockOfSextets v.s0.toNat v.s1.toNat v.s2.toNat v.s3.toNat := by
  simp only [pck6_eq_append, blockOfSextets, toNat_append_eq_add]
  omega

theorem blockPayload_toNat (blk : Block) : (blockPayload blk).toNat = blk.toNat :=
  BitVec.toNat_setWidth_of_le (by decide)

/-- A result of fixed length as the spec writes its word. -/
theorem okResponse_toWord (payload : Payload) : (okResponse 0#2 payload).toWord = rsp 0 0 payload.toNat :=
  toWord_eq_rsp _

/-- Settles O30: the lanes hold the fields of the block, and a field is a shift and a mask. -/
theorem xtr6AnswersTheSextets : Obligations.Xtr6AnswersTheSextets := by
  intro blk s
  rw [exec_eq, answer_eq_answered, responseOf, okResponse_toWord, sextetPayload_toNat, xtr6_eq_fields,
    ← sextetField_toNat, ← sextetField_toNat, ← sextetField_toNat, ← sextetField_toNat]

/-- Settles O31: the block of four sextets is their concatenation, a sum. -/
theorem pck6AnswersTheBlock : Obligations.Pck6AnswersTheBlock := by
  intro v0 v1 v2 v3 s
  rw [exec_eq, answer_eq_answered, responseOf, okResponse_toWord, blockPayload_toNat, pck6_toNat]

end Sys2Proof.Machine
end

section
/-! The lookups of spec/40_alphabet_lookup.md (R92 to R94) and RLUT's response (R91), by the class of the code. -/

namespace Sys2Proof.Machine

open Sys2Proof.Spec

/-! ## The lookup function (R92 to R94) -/

theorem rlut_of_charValue (c : Byte) (v : Nat) (h : charValue c.toNat = some v) :
    rlut c = .value (BitVec.ofNat 6 v) := by
  rw [rlut, readRALPHA_of_charValue c v h]

@[simp] theorem rlut_pad : rlut 0x3D#8 = .pad := rfl

theorem rlut_of_invalidCode (c : Byte) (h : invalidCode c.toNat) : rlut c = .invalid := by
  rw [rlut, readRALPHA_of_invalidCode c h]

@[simp] theorem rlut_alut (s : Sextet) : rlut (alut s) = .value s := by
  rw [rlut_of_charValue _ _ (charValue_alut s), BitVec.ofNat_toNat, BitVec.setWidth_eq]

/-- The two lookups undo each other: only the character of a sextet is looked up to it. -/
theorem rlut_eq_value_iff (c : Byte) (v : Sextet) : rlut c = .value v ↔ alut v = c := by
  refine ⟨fun hlookup => ?_, fun h => h ▸ rlut_alut v⟩
  rcases charCode_cases c with ⟨n, hvalue⟩ | rfl | hinvalid
  · obtain ⟨hn, hcode⟩ := (charValue_eq_some_iff _ n).mp hvalue
    obtain rfl := Lookup.value.inj ((rlut_of_charValue c n hvalue).symm.trans hlookup)
    apply BitVec.eq_of_toNat_eq
    rw [alut_toNat, BitVec.toNat_ofNat, Nat.mod_eq_of_lt hn, hcode]
  · cases rlut_pad.symm.trans hlookup
  · cases (rlut_of_invalidCode c hinvalid).symm.trans hlookup

theorem alut_injective (s t : Sextet) (h : alut s = alut t) : s = t :=
  Lookup.value.inj ((rlut_alut s).symm.trans (h ▸ rlut_alut t))

theorem alut_ne_pad (s : Sextet) : alut s ≠ 0x3D#8 := by
  intro h
  cases (rlut_alut s).symm.trans ((congrArg rlut h).trans rlut_pad)

/-- Settles O22: `rlut` undoes `alut` on every sextet, and the pad character is looked up to no value. -/
theorem lookupsAreInverse : Obligations.LookupsAreInverse :=
  ⟨fun s => (ALPHA_getElem?_eq_alut s).symm, alut_injective,
    fun s => ⟨alut_ne_pad s, (alut_toNat s).symm ▸ alphaCode_lt s.toNat⟩, rlut_alut,
    fun c v => (rlut_eq_value_iff c v).mp⟩

/-! ## RLUT's response (R91) -/

/-- RLUT's payload with `ispad` 0 is the value. -/
theorem lookupPayload_false_toNat (v : Sextet) : (lookupPayload false v).toNat = v.toNat := by
  simp only [lookupPayload, toNat_append_eq_add, BitVec.toNat_ofNat, BitVec.toNat_ofBool, Bool.toNat_false]
  omega

theorem responseOf_rlut_of_charValue (c : Byte) (v : Nat) (h : charValue c.toNat = some v) :
    (responseOf (.rlut c)).toWord = rsp 0 0 v := by
  obtain ⟨hv, -⟩ := (charValue_eq_some_iff _ v).mp h
  rw [responseOf, rlut_of_charValue c v h, okResponse_toWord, lookupPayload_false_toNat, BitVec.toNat_ofNat,
    Nat.mod_eq_of_lt hv]

theorem responseOf_rlut_pad : (responseOf (.rlut 0x3D#8)).toWord = rsp 0 0 0x100 := rfl

theorem responseOf_rlut_of_invalidCode (c : Byte) (h : invalidCode c.toNat) :
    (responseOf (.rlut c)).toWord = rsp 2 0 0 := by
  rw [responseOf, rlut_of_invalidCode c h]
  rfl

/-- Settles O25: executing RLUT delivers its response (`exec_eq`), which the class of the code gives. -/
theorem rlutAnswersByClass : Obligations.RlutAnswersByClass := by
  refine ⟨fun c v s hvalue => ?_, fun s => ?_, fun c s hinvalid => ?_⟩ <;> rw [exec_eq, answer_eq_answered]
  · rw [responseOf_rlut_of_charValue c v hvalue]
  · rw [responseOf_rlut_pad]
  · rw [responseOf_rlut_of_invalidCode c hinvalid]

end Sys2Proof.Machine
end

section
/-! ALUT and RLUT as request words (spec/40_alphabet_lookup.md R90, R91), and the words the spec writes out. -/

namespace Sys2Proof.Machine

open Sys2Proof.Spec

/-! ## Well-formed commands as request words -/

/-- The word of a well-formed command is answered with the command's response. -/
theorem issue_encode (i : Instr) (h : i.wellFormed = true) : issue (encode i) = (responseOf i).toWord := by
  rw [issue_eq, responseTo_of_ok _ i (decode_encode i h)]

/-- Settles O4: each word is the encoding of its command, and decoding undoes it. -/
theorem specExampleWordsDecode : Obligations.SpecExampleWordsDecode :=
  ⟨decode_encode (.xtr6 0x4D616E#24) rfl, decode_encode (.pck6 19#6 22#6 5#6 46#6) rfl,
    decode_encode (.alut 19#6) rfl, decode_encode (.rlut 0x75#8) rfl,
    decode_encode (.enc3 1#2 0x4D#8 0x61#8 0x00#8) rfl, decode_encode (.dec4 0x54#8 0x57#8 0x45#8 0x3D#8) rfl⟩

/-! ## ALUT (R90) -/

/-- Every word with op 2 is ALUT of its low six bits, or has a reserved bit set (R62, R67). -/
theorem decode_of_op2 (r : Request) (hop : r.extractLsb' 32 3 = 2#3) : decode r =
    if r.extractLsb' 6 26 = 0#26 then .ok (.alut (r.extractLsb' 0 6)) else .error .reservedBits := by
  have hr : requestWord 2#3 (payloadOf r) = r := hop ▸ requestWord_eta r
  simpa only [hr, reserved_op2, extractLsb'_payloadOf r 6 26 (by decide), extractLsb'_payloadOf r 0 6 (by decide)]
    using decode_op2 (payloadOf r)

theorem responseTo_of_op2 (r : Request) (hop : r.extractLsb' 32 3 = 2#3) : (responseTo r).toWord =
    if r.extractLsb' 6 26 = 0#26 then rsp 0 0 (alphaCode (r.extractLsb' 0 6).toNat) else rsp 4 0 0 := by
  have hdecode := decode_of_op2 r hop
  split
  next hlegal => rw [responseTo_of_ok r _ (hdecode.trans (if_pos hlegal)), responseOf_alut_toWord]
  next hreserved =>
    rw [responseTo_of_error r _ (hdecode.trans (if_neg hreserved))]
    rfl

/-- Settles O24: the step delivers the response of `responseTo_of_op2`; the corner cases are words of R90, evaluated. -/
theorem alutCommand : Obligations.AlutCommand := by
  refine ⟨fun s r rest hpending hop => ?_, by decide⟩
  rw [step_of_cons s r rest hpending, answer_eq_answered, responseTo_of_op2 r hop]

/-! ## RLUT (R91) -/

/-- Every word with op 3 is RLUT of its low byte, or has a reserved bit set (R62, R67). -/
theorem decode_of_op3 (r : Request) (hop : r.extractLsb' 32 3 = 3#3) : decode r =
    if r.extractLsb' 8 24 = 0#24 then .ok (.rlut (r.extractLsb' 0 8)) else .error .reservedBits := by
  have hr : requestWord 3#3 (payloadOf r) = r := hop ▸ requestWord_eta r
  have hlane : lane 3 (payloadOf r) = r.extractLsb' 0 8 := extractLsb'_payloadOf r 0 8 (by decide)
  simpa only [hr, reserved_op3, extractLsb'_payloadOf r 8 24 (by decide), hlane] using decode_op3 (payloadOf r)

theorem responseTo_of_op3_reserved (r : Request) (hop : r.extractLsb' 32 3 = 3#3) (h : r.extractLsb' 8 24 ≠ 0#24) :
    (responseTo r).toWord = rsp 4 0 0 := by
  rw [responseTo_of_error r _ ((decode_of_op3 r hop).trans (if_neg h))]
  rfl

theorem responseTo_of_op3_legal (r : Request) (hop : r.extractLsb' 32 3 = 3#3) (h : r.extractLsb' 8 24 = 0#24) :
    responseTo r = responseOf (.rlut (r.extractLsb' 0 8)) :=
  responseTo_of_ok r _ ((decode_of_op3 r hop).trans (if_pos h))

/-- The code of RLUT's word, written as a number, is added to the opcode. -/
theorem ofNat_eq_encode_rlut (c : Nat) (h : c < 256) :
    BitVec.ofNat 35 (0x300000000 + c) = encode (.rlut (BitVec.ofNat 8 c)) := by
  apply BitVec.eq_of_toNat_eq
  simp only [encode, requestWord, toNat_append_eq_add, BitVec.toNat_ofNat]
  omega

theorem issue_rlut_of_invalidCode (c : Nat) (hc : c < 256) (hinvalid : invalidCode c) :
    issue (BitVec.ofNat 35 (0x300000000 + c)) = 0x0800000000#37 := by
  have hcode : (BitVec.ofNat 8 c).toNat = c := Nat.mod_eq_of_lt hc
  rw [ofNat_eq_encode_rlut c hc, issue_encode _ rfl, responseOf_rlut_of_invalidCode _ (hcode.symm ▸ hinvalid)]
  rfl

/-- R25: the alphabet and the pad character are below 0x80. -/
theorem invalidCode_of_ge (c : Nat) (h : 0x80 ≤ c) : invalidCode c := by
  refine ⟨Option.eq_none_iff_forall_ne_some.mpr fun v hvalue => ?_, by omega⟩
  obtain ⟨-, rfl⟩ := (charValue_eq_some_iff c v).mp hvalue
  exact absurd (alphaCode_lt v) (Nat.not_lt.mpr h)

/-- Settles O26: the reserved bits are tested first, then the class of the code decides; the neighbours of the alphabet
and the codes from 0x80 on are invalid. -/
theorem rlutCommand : Obligations.RlutCommand := by
  refine ⟨fun s r rest hpending hop => ?step, by decide, fun c hc => ?neighbours, fun c hlow hhigh => ?high⟩
  case step =>
    rw [step_of_cons s r rest hpending, answer_eq_answered]
    by_cases hreserved : r.extractLsb' 8 24 = 0#24
    · rw [responseTo_of_op3_legal r hop hreserved, if_neg (not_not.mpr hreserved)]
      rcases charCode_cases (r.extractLsb' 0 8) with ⟨v, hvalue⟩ | hpad | hinvalid
      · rw [responseOf_rlut_of_charValue _ v hvalue, hvalue]
      · rw [hpad]
        rfl
      · have hne : r.extractLsb' 0 8 ≠ 0x3D#8 := fun h => hinvalid.2 (congrArg BitVec.toNat h)
        rw [responseOf_rlut_of_invalidCode _ hinvalid, hinvalid.1, if_neg hne]
    · rw [responseTo_of_op3_reserved r hop hreserved, if_pos hreserved]
  case neighbours =>
    have hinvalid : ∀ c ∈ [0x40, 0x5B, 0x60, 0x7B, 0x3A, 0x2A, 0x2C, 0x2D, 0x2E, 0x5F, 0x20, 0x0A, 0x0D, 0x09,
        0x00], c < 256 ∧ invalidCode c := by decide
    obtain ⟨hbyte, hcode⟩ := hinvalid c hc
    exact issue_rlut_of_invalidCode c hbyte hcode
  case high => exact issue_rlut_of_invalidCode c (Nat.lt_succ_of_le hhigh) (invalidCode_of_ge c hlow)

end Sys2Proof.Machine
end

section
/-! The group commands as compositions of the four small commands (spec/95_test_vectors.md P5, R132, R135): what a host
reads from the small commands' responses, and the codec of a group in the same terms. -/

namespace Sys2Proof.Machine

open Sys2Proof.Spec

/-! ## Reading a response -/

theorem rspPayload_issue_encode (i : Instr) (h : i.wellFormed = true) :
    rspPayload (issue (encode i)) = (responseOf i).payload := by
  rw [issue_encode i h, rspPayload_toWord]

theorem lanesOf_lanes (x0 x1 x2 x3 : Byte) : lanesOf (lanes x0 x1 x2 x3) = [x0, x1, x2, x3] := by
  obtain ⟨h0, h1, h2, h3⟩ := lane_lanes x0 x1 x2 x3
  rw [lanesOf, h0, h1, h2, h3]

/-- A sextet in a lane is a legal operand of ALUT, whose response holds its character. -/
theorem alutAnswer_sextetLane (v : Sextet) : alutAnswer (sextetLane v) = alut v := by
  have hoperand : (sextetLane v).setWidth 32 = (0#26 ++ v : Payload) := by
    apply BitVec.eq_of_toNat_eq
    rw [BitVec.toNat_setWidth_of_le (by decide), sextetLane_toNat, toNat_append_eq_add]
    simp
  have hpayload := rspPayload_issue_encode (.alut v) rfl
  rw [encode, ← hoperand] at hpayload
  rw [alutAnswer, hpayload]
  exact BitVec.extractLsb'_setWidth_of_le (by decide) |>.trans BitVec.extractLsb'_eq_self

theorem rlutRefuses_eq (c : Byte) : rlutRefuses c = (rlut c).isInvalid := by
  rw [rlutRefuses, issue_encode _ rfl, statusField_toWord, responseOf]
  cases rlut c <;> rfl

/-- RLUT's payload in the terms of R133 and R135; both fields are zero where the code is refused. -/
theorem responseOf_rlut_payload (c : Byte) :
    (responseOf (.rlut c)).payload = lookupPayload (rlut c).isPad (rlut c).sextet := by
  rw [responseOf]
  cases rlut c <;> rfl

theorem getLsbD_lookupPayload (ispad : Bool) (v : Sextet) : (lookupPayload ispad v).getLsbD 8 = ispad := by
  simp only [lookupPayload, BitVec.getLsbD_append]
  simp

theorem lane_lookupPayload (ispad : Bool) (v : Sextet) : lane 3 (lookupPayload ispad v) = sextetLane v := by
  have across := extractLsb'_append_across (0#23 ++ BitVec.ofBool ispad ++ 0#2) v 0 2 6 rfl
  rwa [BitVec.extractLsb'_append_eq_right, BitVec.extractLsb'_eq_self] at across

theorem rlutFlag_eq (c : Byte) : rlutFlag c = (rlut c).isPad := by
  rw [rlutFlag, rspPayload_issue_encode _ rfl, responseOf_rlut_payload, getLsbD_lookupPayload]

theorem rlutValue_eq (c : Byte) : rlutValue c = sextetLane (rlut c).sextet := by
  rw [rlutValue, rspPayload_issue_encode _ rfl, responseOf_rlut_payload, lane_lookupPayload]

/-- RLUT's values are legal operands of PCK6. -/
theorem rlutPacked_eq (c0 c1 c2 c3 : Byte) : rlutPacked c0 c1 c2 c3 =
    (pck6 ⟨(rlut c0).sextet, (rlut c1).sextet, (rlut c2).sextet, (rlut c3).sextet⟩).toNat := by
  have hpayload := rspPayload_issue_encode
    (.pck6 (rlut c0).sextet (rlut c1).sextet (rlut c2).sextet (rlut c3).sextet) rfl
  rw [encode] at hpayload
  simp only [rlutPacked, rlutValue_eq, hpayload]
  exact blockPayload_toNat _

/-! ## ENC3 -/

theorem pad_cases (pad : PadField) (h : pad ≠ 3#2) : pad = 0#2 ∨ pad = 1#2 ∨ pad = 2#2 := by
  revert pad; decide

/-- R130: the last `pad` bytes of the group are zero. -/
theorem fill_eq_ite (pad : PadField) (b0 b1 b2 : Byte) (h : pad ≠ 3#2) :
    fill pad ⟨b0, b1, b2⟩ = ⟨b0, if pad.toNat ≤ 1 then b1 else 0#8, if pad.toNat = 0 then b2 else 0#8⟩ := by
  rcases pad_cases pad h with rfl | rfl | rfl <;> rfl

/-- R131: the last `pad` characters of the group are the pad character. -/
theorem padrep_toList (pad : PadField) (c : Chars4) (h : pad ≠ 3#2) :
    (padrep pad c).toList = c.toList.take (4 - pad.toNat) ++ List.replicate pad.toNat 0x3D#8 := by
  rcases pad_cases pad h with rfl | rfl | rfl <;> rfl

theorem responseOf_enc3 (pad : PadField) (b0 b1 b2 : Byte) (h : pad ≠ 3#2) :
    responseOf (.enc3 pad b0 b1 b2) = okResponse 0#2 (charsPayload (encodeGroup pad ⟨b0, b1, b2⟩)) := by
  rw [responseOf, if_neg h]

/-- ALUT on every lane of XTR6's response gives the characters of the block. -/
theorem map_alutAnswer_xtr6 (blk : Block) :
    (lanesOf (rspPayload (issue (encode (.xtr6 blk))))).map alutAnswer = (alutAll (xtr6 blk)).toList := by
  rw [rspPayload_issue_encode _ rfl, responseOf, okResponse, sextetPayload, lanesOf_lanes]
  simp only [List.map_cons, List.map_nil, alutAnswer_sextetLane]
  rfl

/-! ## DEC4 -/

/-- R113: cutting out the byte `i` of a block is a shift and a mask. -/
theorem byteField_toNat (blk : Block) (i : Nat) : (blk.extractLsb' (16 - 8 * i) 8).toNat = byteAt blk.toNat i :=
  (Nat.and_two_pow_sub_one_eq_mod _ 8).symm

theorem bytesPayload_toNat (d : Bytes3) : (bytesPayload d).toNat = lanes4 0 d.o0.toNat d.o1.toNat d.o2.toNat :=
  lanes_toNat _ _ _ _

/-- R134: the bytes that `drop` keeps of a block, with their count, as the spec writes the response. -/
theorem drop_ext8_toWord (pad : PadField) (blk : Block) (h : pad ≠ 3#2) :
    (okResponse (drop pad (ext8 blk)).1 (bytesPayload (drop pad (ext8 blk)).2)).toWord =
      rsp 0 (3 - pad.toNat) (lanes4 0 (groupByte (3 - pad.toNat) blk.toNat 0) (groupByte (3 - pad.toNat) blk.toNat 1)
        (groupByte (3 - pad.toNat) blk.toNat 2)) := by
  rw [toWord_eq_rsp, okResponse, bytesPayload_toNat, ext8_eq_fields]
  simp only [groupByte, ← byteField_toNat]
  rcases pad_cases pad h with rfl | rfl | rfl <;> rfl

/-- R133: the three accepted patterns in order. -/
theorem padcls_eq_ite (p0 p1 p2 p3 : Bool) : padcls p0 p1 p2 p3 =
    if [p0, p1, p2, p3] = [false, false, false, false] then .count 0#2
    else if [p0, p1, p2, p3] = [false, false, false, true] then .count 1#2
    else if [p0, p1, p2, p3] = [false, false, true, true] then .count 2#2
    else .misplaced := by
  revert p0 p1 p2 p3; decide

theorem any_rlutRefuses (c0 c1 c2 c3 : Byte) : [c0, c1, c2, c3].any rlutRefuses =
    ((rlut c0).isInvalid || (rlut c1).isInvalid || (rlut c2).isInvalid || (rlut c3).isInvalid) := by
  simp only [List.any_cons, List.any_nil, rlutRefuses_eq, Bool.or_false, Bool.or_assoc]

theorem responseOf_dec4_of_invalid (c0 c1 c2 c3 : Byte) (h : [c0, c1, c2, c3].any rlutRefuses = true) :
    responseOf (.dec4 c0 c1 c2 c3) = errorResponse .invalidCharacter := by
  rw [responseOf, if_pos (any_rlutRefuses c0 c1 c2 c3 ▸ h)]

theorem responseOf_dec4_of_misplaced (c0 c1 c2 c3 : Byte) (h : ¬ [c0, c1, c2, c3].any rlutRefuses = true)
    (hpattern : padcls (rlut c0).isPad (rlut c1).isPad (rlut c2).isPad (rlut c3).isPad = .misplaced) :
    responseOf (.dec4 c0 c1 c2 c3) = errorResponse .misplacedPadding := by
  rw [responseOf, if_neg (any_rlutRefuses c0 c1 c2 c3 ▸ h), hpattern]

/-- DEC4 of a group of legal pad pattern keeps bytes of PCK6's block of RLUT's values. -/
theorem responseOf_dec4_of_count (c0 c1 c2 c3 : Byte) (pad : PadField) (h : ¬ [c0, c1, c2, c3].any rlutRefuses = true)
    (hpattern : padcls (rlut c0).isPad (rlut c1).isPad (rlut c2).isPad (rlut c3).isPad = .count pad)
    (hpad : pad ≠ 3#2) :
    (responseOf (.dec4 c0 c1 c2 c3)).toWord =
      rsp 0 (3 - pad.toNat) (lanes4 0 (groupByte (3 - pad.toNat) (rlutPacked c0 c1 c2 c3) 0)
        (groupByte (3 - pad.toNat) (rlutPacked c0 c1 c2 c3) 1)
        (groupByte (3 - pad.toNat) (rlutPacked c0 c1 c2 c3) 2)) := by
  rw [responseOf, if_neg (any_rlutRefuses c0 c1 c2 c3 ▸ h), hpattern, rlutPacked_eq]
  exact drop_ext8_toWord pad _ hpad

/-- Settles O44: both commands are defined by the functions whose values the small commands answer. -/
theorem groupCommandsAreCompositions : Obligations.GroupCommandsAreCompositions := by
  refine ⟨fun pad b0 b1 b2 hpad => ?enc3, fun c0 c1 c2 c3 => ?dec4⟩
  case enc3 =>
    have hwf : (Instr.enc3 pad b0 b1 b2).wellFormed = true := bne_iff_ne.mpr hpad
    have hgroup := fill_eq_ite pad b0 b1 b2 hpad
    simp only [map_alutAnswer_xtr6]
    rw [issue_encode _ hwf, statusField_toWord, countField_toWord, rspPayload_toWord, responseOf_enc3 _ _ _ _ hpad]
    refine ⟨rfl, rfl, ?_⟩
    rw [← padrep_toList pad _ hpad, okResponse, charsPayload, lanesOf_lanes, encodeGroup, hgroup, cat3_eq_append]
    rfl
  case dec4 =>
    have hpattern := padcls_eq_ite (rlut c0).isPad (rlut c1).isPad (rlut c2).isPad (rlut c3).isPad
    simp only [List.map_cons, List.map_nil, rlutFlag_eq, issue_encode (.dec4 c0 c1 c2 c3) rfl]
    by_cases hrefused : [c0, c1, c2, c3].any rlutRefuses = true
    · rw [if_pos hrefused, responseOf_dec4_of_invalid c0 c1 c2 c3 hrefused]
      rfl
    · rw [if_neg hrefused]
      split_ifs at hpattern ⊢
      · exact responseOf_dec4_of_count c0 c1 c2 c3 0#2 hrefused hpattern (by decide)
      · exact responseOf_dec4_of_count c0 c1 c2 c3 1#2 hrefused hpattern (by decide)
      · exact responseOf_dec4_of_count c0 c1 c2 c3 2#2 hrefused hpattern (by decide)
      · rw [responseOf_dec4_of_misplaced c0 c1 c2 c3 hrefused hpattern]
        rfl

end Sys2Proof.Machine
end

section
/-! The four datapath functions (spec/41_sextet_datapath.md R110 to R113, R116): on natural numbers a concatenation is
shifts and ORs, and cutting undoes joining because both only re-slice the same 24 bits. -/

namespace Sys2Proof.Machine

open Sys2Proof.Spec

/-! ## The functions on natural numbers (R110 to R113) -/

/-- R110 as the spec writes it. -/
theorem cat3_toNat_eq_or (b : Bytes3) :
    (cat3 b).toNat = (b.o0.toNat <<< 16) ||| (b.o1.toNat <<< 8) ||| b.o2.toNat := by
  rw [cat3_eq_append, BitVec.toNat_append, BitVec.toNat_append, Nat.shiftLeft_or_distrib, ← Nat.shiftLeft_add]

/-- The three terms of R110 occupy disjoint bits. -/
theorem cat3_toNat_eq_sum (b : Bytes3) : (cat3 b).toNat = blockOfBytes b.o0.toNat b.o1.toNat b.o2.toNat := by
  simp only [cat3_eq_append, blockOfBytes, toNat_append_eq_add]
  omega

/-- R112 as the spec writes it. -/
theorem pck6_toNat_eq_or (v : Sextets) :
    (pck6 v).toNat = (v.s0.toNat <<< 18) ||| (v.s1.toNat <<< 12) ||| (v.s2.toNat <<< 6) ||| v.s3.toNat := by
  rw [pck6_eq_append, BitVec.toNat_append, BitVec.toNat_append, BitVec.toNat_append]
  simp only [Nat.shiftLeft_or_distrib, ← Nat.shiftLeft_add, Nat.reduceAdd]

/-- R111: the mask on the first sextet removes nothing. -/
theorem block_shiftRight_lt (blk : Block) : blk.toNat >>> 18 < 64 :=
  BitVec.toNat_ushiftRight_lt blk 18 (by decide)

/-- Settles O27: joins are concatenations, and a field of the block is a shift and a mask. -/
theorem datapathFunctionsFollowTheShifts : Obligations.DatapathFunctionsFollowTheShifts := by
  refine ⟨fun b => ⟨cat3_toNat_eq_or b, cat3_toNat_eq_sum b, cat3_eq_append b⟩, fun blk => ?xtr6,
    fun v => ⟨pck6_toNat_eq_or v, pck6_eq_append v⟩, fun blk => ?ext8⟩
  case xtr6 =>
    rw [xtr6_eq_fields]
    exact ⟨sextetField_toNat blk 0, sextetField_toNat blk 1, sextetField_toNat blk 2, sextetField_toNat blk 3,
      block_shiftRight_lt blk⟩
  case ext8 =>
    rw [ext8_eq_fields]
    exact ⟨byteField_toNat blk 0, byteField_toNat blk 1, byteField_toNat blk 2⟩

/-! ## Cutting and joining undo each other (R116) -/

/-- The part of a concatenation that lies above its lower part. -/
theorem extractLsb'_append_upper {m n : Nat} (x : BitVec m) (y : BitVec n) (start len : Nat) :
    (x ++ y).extractLsb' (start + n) len = x.extractLsb' start len := by
  rw [BitVec.extractLsb'_append_eq_of_le (Nat.le_add_left n start), Nat.add_sub_cancel]

@[simp] theorem xtr6_pck6 (v : Sextets) : xtr6 (pck6 v) = v := by
  rw [xtr6_eq_fields, pck6_eq_append]
  have above_v3 (start : Nat) := extractLsb'_append_upper (v.s0 ++ v.s1 ++ v.s2) v.s3 start 6
  have above_v2 (start : Nat) := extractLsb'_append_upper (v.s0 ++ v.s1) v.s2 start 6
  have first := (above_v3 12).trans ((above_v2 6).trans BitVec.extractLsb'_append_eq_left)
  have second := (above_v3 6).trans ((above_v2 0).trans BitVec.extractLsb'_append_eq_right)
  have third := (above_v3 0).trans BitVec.extractLsb'_append_eq_right
  rw [first, second, third, BitVec.extractLsb'_append_eq_right]

@[simp] theorem pck6_xtr6 (blk : Block) : pck6 (xtr6 blk) = blk := by
  rw [pck6_eq_append, xtr6_eq_fields]
  have first_two : blk.extractLsb' 18 6 ++ blk.extractLsb' 12 6 = blk.extractLsb' 12 12 :=
    BitVec.extractLsb'_append_extractLsb'_eq_extractLsb' rfl
  have first_three : blk.extractLsb' 12 12 ++ blk.extractLsb' 6 6 = blk.extractLsb' 6 18 :=
    BitVec.extractLsb'_append_extractLsb'_eq_extractLsb' rfl
  rw [first_two, first_three]
  exact BitVec.extractLsb'_append_extractLsb' (w := 18) (len := 6)

@[simp] theorem ext8_cat3 (b : Bytes3) : ext8 (cat3 b) = b := by
  rw [ext8_eq_fields, cat3_eq_append]
  have above_b2 (start : Nat) := extractLsb'_append_upper (b.o0 ++ b.o1) b.o2 start 8
  have first := (above_b2 8).trans BitVec.extractLsb'_append_eq_left
  have second := (above_b2 0).trans BitVec.extractLsb'_append_eq_right
  rw [first, second, BitVec.extractLsb'_append_eq_right]

@[simp] theorem cat3_ext8 (blk : Block) : cat3 (ext8 blk) = blk := by
  rw [cat3_eq_append, ext8_eq_fields]
  have first_two : blk.extractLsb' 16 8 ++ blk.extractLsb' 8 8 = blk.extractLsb' 8 16 :=
    BitVec.extractLsb'_append_extractLsb'_eq_extractLsb' rfl
  rw [first_two]
  exact BitVec.extractLsb'_append_extractLsb' (w := 16) (len := 8)

/-- Settles O29: the chain is two of the inverse laws, one inside the other. -/
theorem datapathFunctionsAreInverse : Obligations.DatapathFunctionsAreInverse := by
  refine ⟨xtr6_pck6, pck6_xtr6, ext8_cat3, cat3_ext8, fun b => ?_⟩
  rw [pck6_xtr6, ext8_cat3]

end Sys2Proof.Machine
end

section
/-! XTR6 and PCK6 as request words (spec/41_sextet_datapath.md R114, R115, R117). -/

namespace Sys2Proof.Machine

open Sys2Proof.Spec

/-- A word that does not decode is no command (R74). -/
theorem step_of_decode_error (s : State) (r : Request) (rest : List Request) (e : Reject)
    (hpending : s.pending = r :: rest) (hdecode : decode r = .error e) :
    step s = .next (answered { s with pending := rest } (rsp 4 0 0)) :=
  step_of_not_command s r rest hpending fun ⟨_, hcommand⟩ => nomatch hdecode.symm.trans hcommand

/-! ## XTR6 (R114) -/

/-- Every word with op 0 is XTR6 of its low 24 bits, or has a reserved bit set (R62, R67). -/
theorem decode_of_op0 (r : Request) (hop : r.extractLsb' 32 3 = 0#3) : decode r =
    if r.extractLsb' 24 8 = 0#8 then .ok (.xtr6 (r.extractLsb' 0 24)) else .error .reservedBits := by
  have hr : requestWord 0#3 (payloadOf r) = r := hop ▸ requestWord_eta r
  simpa only [hr, reserved_op0, extractLsb'_payloadOf r 24 8 (by decide), extractLsb'_payloadOf r 0 24 (by decide)]
    using decode_op0 (payloadOf r)

/-- Settles O32: the reserved bits decide between `IllegalCommand` and the completion of O30; the corner cases are words
of R114, evaluated. -/
theorem xtr6Command : Obligations.Xtr6Command := by
  refine ⟨fun s r rest hpending hop => ?_, fun b0 b1 b2 => (cat3_eq_append ⟨b0, b1, b2⟩).symm, by decide⟩
  have hdecode := decode_of_op0 r hop
  split
  next hreserved => exact step_of_decode_error s r rest _ hpending (hdecode.trans (if_neg hreserved))
  next hlegal =>
    rw [stepRunsDecodedCommand.1 s r rest _ hpending (hdecode.trans (if_pos (not_not.mp hlegal)))]
    exact xtr6AnswersTheSextets _ _

/-! ## PCK6 (R115) -/

/-- The sextet operand in lane `i` of a request word (R70). -/
theorem laneSextet_payloadOf (i : Fin 4) (r : Request) :
    laneSextet i (payloadOf r) = r.extractLsb' (24 - 8 * i.val) 6 :=
  (extractLsb'_lane i (payloadOf r) 0 6 (by decide)).trans (extractLsb'_payloadOf r _ 6 (by omega))

/-- Every word with op 1 is PCK6 of the sextets in its lanes, or has a reserved bit set (R62, R67). -/
theorem decode_of_op1 (r : Request) (hop : r.extractLsb' 32 3 = 1#3) : decode r =
    if r.extractLsb' 0 32 &&& 0xC0C0C0C0#32 = 0#32 then
      .ok (.pck6 (r.extractLsb' 24 6) (r.extractLsb' 16 6) (r.extractLsb' 8 6) (r.extractLsb' 0 6))
    else .error .reservedBits := by
  have hr : requestWord 1#3 (payloadOf r) = r := hop ▸ requestWord_eta r
  have hdecode := decode_op1 (payloadOf r)
  rw [hr, laneSextet_payloadOf, laneSextet_payloadOf, laneSextet_payloadOf, laneSextet_payloadOf] at hdecode
  exact hdecode

/-- Settles O33: the reserved bits decide between `IllegalCommand` and the completion of O31; the corner cases are words
of R115, evaluated. -/
theorem pck6Command : Obligations.Pck6Command := by
  refine ⟨fun s r rest hpending hop => ?_, by decide⟩
  have hdecode := decode_of_op1 r hop
  split
  next hreserved => exact step_of_decode_error s r rest _ hpending (hdecode.trans (if_neg hreserved))
  next hlegal =>
    rw [stepRunsDecodedCommand.1 s r rest _ hpending (hdecode.trans (if_pos (not_not.mp hlegal)))]
    exact pck6AnswersTheBlock _ _ _ _ _

/-! ## The two commands on each other's responses (R117) -/

/-- XTR6's payload is PCK6's format: sextets in lanes (R62, R64). -/
theorem requestWord_sextetPayload (s : Sextets) :
    requestWord 1#3 (sextetPayload s) = encode (.pck6 s.s0 s.s1 s.s2 s.s3) := rfl

/-- PCK6's payload is XTR6's format: a zero-extended block (R62, R64). -/
theorem requestWord_blockPayload (blk : Block) : requestWord 0#3 (blockPayload blk) = encode (.xtr6 blk) := by
  have hzero : blockPayload blk = 0#8 ++ blk := BitVec.setWidth_eq_append (by decide)
  rw [hzero, encode]

/-- Settles O34: each payload is the operand of the other command's encoding, and the functions undo each other. -/
theorem xtr6AndPck6AreInverseCommands : Obligations.Xtr6AndPck6AreInverseCommands := by
  refine ⟨fun blk => ?blocks, fun v0 v1 v2 v3 => ?sextets⟩
  case blocks =>
    rw [rspPayload_issue_encode _ rfl, responseOf, okResponse, requestWord_sextetPayload, issue_encode _ rfl,
      responseOf, okResponse_toWord, blockPayload_toNat, pck6_xtr6]
  case sextets =>
    rw [rspPayload_issue_encode _ rfl, responseOf, okResponse, requestWord_blockPayload, issue_encode _ rfl, responseOf,
      okResponse_toWord, sextetPayload_toNat, xtr6_pck6]

end Sys2Proof.Machine
end

section
/-! Filling a group and its pad flags (spec/42_group_codec.md R130 to R134): `fill` zeroes the left-over bits of the
last real sextet and every sextet after it. -/

namespace Sys2Proof.Machine

/-! ## What filling does to the sextets (R130, R131) -/

/-- The sextets of a group of which the last `pad` bytes are fill: the left-over bits of the last real sextet (R137) and
the sextets in the places of the pad characters are zero. -/
def clearLeftOver (pad : PadField) (v : Sextets) : Sextets :=
  match pad.toNat with
  | 0 => v
  | 1 => ⟨v.s0, v.s1, v.s2.extractLsb' 2 4 ++ 0#2, 0#6⟩
  | _ => ⟨v.s0, v.s1.extractLsb' 4 2 ++ 0#4, 0#6, 0#6⟩

theorem fill_one (b : Bytes3) : fill 1#2 b = ⟨b.o0, b.o1, 0#8⟩ := rfl

theorem fill_two (b : Bytes3) : fill 2#2 b = ⟨b.o0, 0#8, 0#8⟩ := rfl

theorem clearLeftOver_one (v : Sextets) : clearLeftOver 1#2 v = ⟨v.s0, v.s1, v.s2.extractLsb' 2 4 ++ 0#2, 0#6⟩ := rfl

theorem clearLeftOver_two (v : Sextets) : clearLeftOver 2#2 v = ⟨v.s0, v.s1.extractLsb' 4 2 ++ 0#4, 0#6, 0#6⟩ := rfl

/-- The real bits of the third sextet are the low four of the second byte. -/
theorem xtr6_cat3_s2_high (b : Bytes3) : (xtr6 (cat3 b)).s2.extractLsb' 2 4 = b.o1.extractLsb' 0 4 := by
  rw [xtr6_cat3_eq]
  exact BitVec.extractLsb'_append_eq_left

/-- The real bits of the second sextet are the low two of the first byte. -/
theorem xtr6_cat3_s1_high (b : Bytes3) : (xtr6 (cat3 b)).s1.extractLsb' 4 2 = b.o0.extractLsb' 0 2 := by
  rw [xtr6_cat3_eq]
  exact BitVec.extractLsb'_append_eq_left

/-- Filling a group clears the left-over bits of its sextets and leaves the bits before them. -/
theorem xtr6_cat3_fill (pad : PadField) (b : Bytes3) (h : pad ≠ 3#2) :
    xtr6 (cat3 (fill pad b)) = clearLeftOver pad (xtr6 (cat3 b)) := by
  rcases pad_cases pad h with rfl | rfl | rfl
  · rfl
  · rw [clearLeftOver_one, xtr6_cat3_s2_high, fill_one]
    simp only [xtr6_cat3_eq, BitVec.extractLsb'_zero]
  · rw [clearLeftOver_two, xtr6_cat3_s1_high, fill_two]
    simp only [xtr6_cat3_eq, BitVec.extractLsb'_zero, BitVec.zero_append_zero]

/-- Settles O35: the equations are those of the definitions, and the sextets whose characters `padrep` replaces are
cleared by filling, so they are the index of `A`. -/
theorem fillReplaceAndDrop : Obligations.FillReplaceAndDrop := by
  refine ⟨fun _ _ _ => ⟨rfl, rfl, rfl⟩, fun _ _ _ => ⟨rfl, rfl, rfl⟩, fun _ _ _ _ => ⟨rfl, rfl, rfl⟩,
    fun b => ?one, fun b => ?two⟩
  case one =>
    rw [xtr6_cat3_fill 1#2 b (by decide)]
    rfl
  case two =>
    rw [xtr6_cat3_fill 2#2 b (by decide)]
    exact ⟨rfl, rfl⟩

/-! ## Pad flags (R133) -/

theorem isPad_rlut_iff (c : Byte) : (rlut c).isPad = true ↔ c = 0x3D#8 := by
  rw [← RCLASS_eq_padChar_iff, RCLASS, rlut]
  cases (readRALPHA c).cls <;> simp only [Lookup.isPad, reduceCtorEq, Bool.false_eq_true]

/-- Settles O36: the sixteen patterns, one by one, and the pad flag by the class of the code. -/
theorem padPatternClassification : Obligations.PadPatternClassification :=
  ⟨rfl, rfl, rfl, by decide, isPad_rlut_iff⟩

end Sys2Proof.Machine
end

section
/-! ENC3 (spec/42_group_codec.md R130 to R132): its response as numbers, and ENC3 as a request word. -/

namespace Sys2Proof.Machine

open Sys2Proof.Spec

/-! ## The response -/

/-- The block of the filled group as the spec writes it (R110, R130). -/
theorem cat3_fill_toNat (pad : PadField) (b0 b1 b2 : Byte) (h : pad ≠ 3#2) :
    (cat3 (fill pad ⟨b0, b1, b2⟩)).toNat = filledBlock pad.toNat b0.toNat b1.toNat b2.toNat := by
  rw [cat3_toNat_eq_sum]
  rcases pad_cases pad h with rfl | rfl | rfl <;> rfl

/-- R131: the characters of a block, the last `pad` of them replaced, as the spec writes them. -/
theorem charsPayload_padrep_toNat (pad : PadField) (blk : Block) (h : pad ≠ 3#2) :
    (charsPayload (padrep pad (alutAll (xtr6 blk)))).toNat =
      lanes4 (groupChar pad.toNat blk.toNat 0) (groupChar pad.toNat blk.toNat 1) (groupChar pad.toNat blk.toNat 2)
        (groupChar pad.toNat blk.toNat 3) := by
  rw [charsPayload, lanes_toNat, xtr6_eq_fields]
  simp only [groupChar, ← sextetField_toNat, ← alut_toNat]
  rcases pad_cases pad h with rfl | rfl | rfl <;> rfl

/-- Settles O37: executing ENC3 delivers its response (`exec_eq`), the characters of the filled block. -/
theorem enc3AnswersTheCharacters : Obligations.Enc3AnswersTheCharacters := by
  intro pad b0 b1 b2 s hpad
  rw [exec_eq, answer_eq_answered, responseOf_enc3 pad b0 b1 b2 hpad, okResponse_toWord, encodeGroup,
    charsPayload_padrep_toNat pad _ hpad, cat3_fill_toNat pad b0 b1 b2 hpad]

theorem issue_enc3 (pad : PadField) (b0 b1 b2 : Byte) (h : pad ≠ 3#2) :
    issue (encode (.enc3 pad b0 b1 b2)) = (okResponse 0#2 (charsPayload (encodeGroup pad ⟨b0, b1, b2⟩))).toWord := by
  rw [issue_encode (.enc3 pad b0 b1 b2) (bne_iff_ne.mpr h), responseOf_enc3 pad b0 b1 b2 h]

theorem rspPayload_issue_enc3 (pad : PadField) (b0 b1 b2 : Byte) (h : pad ≠ 3#2) :
    rspPayload (issue (encode (.enc3 pad b0 b1 b2))) = charsPayload (encodeGroup pad ⟨b0, b1, b2⟩) := by
  rw [issue_enc3 pad b0 b1 b2 h, rspPayload_toWord, okResponse]

/-! ## ENC3 as a request word -/

/-- Every word with op 4 is ENC3 of its pad field and lanes, or has a reserved bit or `pad = 3` (R62, R67, R68). -/
theorem decode_of_op4 (r : Request) (hop : r.extractLsb' 32 3 = 4#3) : decode r =
    if r.extractLsb' 26 6 = 0#6 then
      if r.extractLsb' 24 2 = 3#2 then .error .reservedPad
      else .ok (.enc3 (r.extractLsb' 24 2) (r.extractLsb' 16 8) (r.extractLsb' 8 8) (r.extractLsb' 0 8))
    else .error .reservedBits := by
  have hr : requestWord 4#3 (payloadOf r) = r := hop ▸ requestWord_eta r
  have hlane (i : Fin 4) : lane i (payloadOf r) = r.extractLsb' (24 - 8 * i.val) 8 :=
    extractLsb'_payloadOf r _ 8 (by omega)
  have hpad : padFieldOf (payloadOf r) = r.extractLsb' 24 2 := extractLsb'_payloadOf r 24 2 (by decide)
  have hdecode := decode_op4 (payloadOf r)
  rw [hr, hlane, hlane, hlane, hpad] at hdecode
  simp only [reserved_op4, extractLsb'_payloadOf r 26 6 (by decide)] at hdecode
  exact hdecode

/-- A sextet whose last `n` bits are zero is the index of a multiple of `2 ^ n`. -/
theorem append_zero_toNat_mod {m : Nat} (x : BitVec m) (n : Nat) : (x ++ 0#n).toNat % 2 ^ n = 0 := by
  rw [toNat_append_eq_add, BitVec.toNat_ofNat, Nat.zero_mod, Nat.add_zero, Nat.mul_mod_left]

/-- The characters of a group by the sextets of its bytes as they were given. -/
theorem encodeGroup_eq (pad : PadField) (b : Bytes3) (h : pad ≠ 3#2) :
    encodeGroup pad b = padrep pad (alutAll (clearLeftOver pad (xtr6 (cat3 b)))) := by
  rw [encodeGroup, xtr6_cat3_fill pad b h]

theorem alut_mem_ALPHA (v : Sextet) : alut v ∈ ALPHA := List.mem_of_getElem? (ALPHA_getElem?_eq_alut v)

theorem exists_alut_of_mem_alutAll (v : Sextets) (c : Byte) (h : c ∈ (alutAll v).toList) : ∃ i, c = alut i := by
  simp only [alutAll, Chars4.toList, List.mem_cons, List.not_mem_nil, or_false] at h
  rcases h with rfl | rfl | rfl | rfl <;> exact ⟨_, rfl⟩

/-- R132: the lanes of ENC3's payload are characters of the alphabet and then `pad` pad characters. -/
theorem lanesOf_encodeGroup (pad : PadField) (b : Bytes3) (h : pad ≠ 3#2) :
    lanesOf (charsPayload (encodeGroup pad b)) =
      (alutAll (xtr6 (cat3 (fill pad b)))).toList.take (4 - pad.toNat) ++ List.replicate pad.toNat 0x3D#8 := by
  rw [charsPayload, lanesOf_lanes, encodeGroup, ← padrep_toList pad _ h]
  rfl

/-- No character of the alphabet is the pad character, so the pad characters are those that `padrep` put there. -/
theorem padChars_length_encodeGroup (pad : PadField) (b : Bytes3) (h : pad ≠ 3#2) :
    ((lanesOf (charsPayload (encodeGroup pad b))).filter (· == 0x3D#8)).length = pad.toNat := by
  have hnone : ((alutAll (xtr6 (cat3 (fill pad b)))).toList.take (4 - pad.toNat)).filter (· == 0x3D#8) = [] := by
    refine List.filter_eq_nil_iff.mpr fun c hc hpad => ?_
    obtain ⟨i, rfl⟩ := exists_alut_of_mem_alutAll _ c (List.mem_of_mem_take hc)
    exact alut_ne_pad i (beq_iff_eq.mp hpad)
  rw [lanesOf_encodeGroup pad b h, List.filter_append, hnone, List.nil_append,
    List.filter_replicate_of_pos (p := (· == 0x3D#8)) (beq_self_eq_true _), List.length_replicate]

theorem mem_lanesOf_encodeGroup (pad : PadField) (b : Bytes3) (h : pad ≠ 3#2) (c : Byte)
    (hc : c ∈ lanesOf (charsPayload (encodeGroup pad b))) : c ∈ ALPHA ∨ c = 0x3D#8 := by
  rw [lanesOf_encodeGroup pad b h] at hc
  rcases List.mem_append.mp hc with halpha | hpad
  · obtain ⟨i, rfl⟩ := exists_alut_of_mem_alutAll _ c (List.mem_of_mem_take halpha)
    exact .inl (alut_mem_ALPHA i)
  · exact .inr (List.eq_of_mem_replicate hpad)

theorem lane_charsPayload (c : Chars4) : lane 0 (charsPayload c) = c.c0 ∧ lane 1 (charsPayload c) = c.c1 ∧
    lane 2 (charsPayload c) = c.c2 ∧ lane 3 (charsPayload c) = c.c3 :=
  lane_lanes _ _ _ _

/-- R131: the pad characters are in the last lanes, lane 3 and then lane 2. -/
theorem lane_pad_encodeGroup (pad : PadField) (b : Bytes3) (h : pad ≠ 3#2) :
    (1 ≤ pad.toNat → lane 3 (charsPayload (encodeGroup pad b)) = 0x3D#8) ∧
    (pad.toNat = 2 → lane 2 (charsPayload (encodeGroup pad b)) = 0x3D#8) := by
  obtain ⟨-, -, hlane2, hlane3⟩ := lane_charsPayload (encodeGroup pad b)
  rw [hlane2, hlane3]
  rcases pad_cases pad h with rfl | rfl | rfl
  · exact ⟨fun hcount => absurd hcount (by decide), fun hcount => absurd hcount (by decide)⟩
  · exact ⟨fun _ => rfl, fun hcount => absurd hcount (by decide)⟩
  · exact ⟨fun _ => rfl, fun _ => rfl⟩

/-- With one pad character the last real lane holds the low four bits of the second byte and two zeros. -/
theorem lane2_encodeGroup_one (b : Bytes3) :
    lane 2 (charsPayload (encodeGroup 1#2 b)) = alut (b.o1.extractLsb' 0 4 ++ 0#2) := by
  obtain ⟨-, -, hlane2, -⟩ := lane_charsPayload (encodeGroup 1#2 b)
  rw [hlane2, encodeGroup_eq 1#2 b (by decide), clearLeftOver_one, xtr6_cat3_s2_high]
  rfl

/-- With two pad characters the last real lane holds the low two bits of the first byte and four zeros. -/
theorem lane1_encodeGroup_two (b : Bytes3) :
    lane 1 (charsPayload (encodeGroup 2#2 b)) = alut (b.o0.extractLsb' 0 2 ++ 0#4) := by
  obtain ⟨-, hlane1, -, -⟩ := lane_charsPayload (encodeGroup 2#2 b)
  rw [hlane1, encodeGroup_eq 2#2 b (by decide), clearLeftOver_two, xtr6_cat3_s1_high]
  rfl

/-- Settles O38: the reserved bits and the pad field decide between `IllegalCommand` and the completion of O37; the
words of R132 are evaluated; the lanes are characters of the alphabet and then the pad characters. -/
theorem enc3Command : Obligations.Enc3Command := by
  refine ⟨fun s r rest hpending hop => ?step, by decide, fun pad b0 b1 b2 hpad => ?corner⟩
  case step =>
    have hdecode := decode_of_op4 r hop
    by_cases hbits : r.extractLsb' 26 6 = 0#6
    · rw [if_pos hbits] at hdecode
      by_cases hpad : r.extractLsb' 24 2 = 3#2
      · rw [if_pos (.inr hpad)]
        exact step_of_decode_error s r rest _ hpending (hdecode.trans (if_pos hpad))
      · rw [if_neg (not_or.mpr ⟨not_not.mpr hbits, hpad⟩),
          stepRunsDecodedCommand.1 s r rest _ hpending (hdecode.trans (if_neg hpad))]
        exact enc3AnswersTheCharacters _ _ _ _ _ hpad
    · rw [if_pos (.inl hbits)]
      exact step_of_decode_error s r rest _ hpending (hdecode.trans (if_neg hbits))
  case corner =>
    obtain ⟨hlast, hlastTwo⟩ := lane_pad_encodeGroup pad ⟨b0, b1, b2⟩ hpad
    simp only [rspPayload_issue_enc3 pad b0 b1 b2 hpad]
    refine ⟨padChars_length_encodeGroup pad _ hpad, hlast, hlastTwo, fun hone => ?one, fun htwo => ?two,
      fun c hc => ?codes⟩
    case one =>
      obtain rfl : pad = 1#2 := BitVec.eq_of_toNat_eq hone
      exact ⟨_, lane2_encodeGroup_one _, append_zero_toNat_mod _ 2, rfl⟩
    case two =>
      obtain rfl : pad = 2#2 := BitVec.eq_of_toNat_eq htwo
      exact ⟨_, lane1_encodeGroup_two _, append_zero_toNat_mod _ 4, rfl⟩
    case codes =>
      have hclass := mem_lanesOf_encodeGroup pad _ hpad c hc
      refine ⟨hclass, ?_⟩
      rcases hclass with halpha | rfl
      · exact toNat_lt_of_mem_ALPHA c halpha
      · decide

end Sys2Proof.Machine
end

section
/-! DEC4 (spec/42_group_codec.md R133 to R135): what it answers to the characters of four sextets with the last ones
replaced by pad characters, and to every other group. -/

namespace Sys2Proof.Machine

open Sys2Proof.Spec

/-! ## Malformed groups -/

theorem rlutRefuses_iff (c : Byte) : rlutRefuses c = true ↔ invalidCode c.toNat := by
  rw [rlutRefuses_eq]
  rcases charCode_cases c with ⟨v, hvalue⟩ | rfl | hinvalid
  · have hcode : ¬ invalidCode c.toNat := fun h => Option.some_ne_none v (hvalue.symm.trans h.1)
    simp only [rlut_of_charValue c v hvalue, Lookup.isInvalid, hcode, Bool.false_eq_true]
  · decide
  · simp only [rlut_of_invalidCode c hinvalid, Lookup.isInvalid, true_iff]
    exact hinvalid

theorem any_rlutRefuses_iff (cs : List Byte) : cs.any rlutRefuses = true ↔ ∃ c ∈ cs, invalidCode c.toNat := by
  simp only [List.any_eq_true, rlutRefuses_iff]

/-- R133: a pad flag before the last two, or a third one without the fourth, is no accepted pattern. -/
theorem padcls_eq_misplaced (p0 p1 p2 p3 : Bool) (h : p0 = true ∨ p1 = true ∨ (p2 = true ∧ p3 = false)) :
    padcls p0 p1 p2 p3 = .misplaced := by
  revert p0 p1 p2 p3; decide

/-- Settles O40: an invalid code is tested first; without one the pad flags are classified. -/
theorem dec4RefusesMalformedGroups : Obligations.Dec4RefusesMalformedGroups := by
  intro c0 c1 c2 c3 s
  rw [exec_eq, answer_eq_answered]
  refine ⟨fun hinvalid => ?invalid, fun hvalid hpads => ?misplaced⟩
  case invalid =>
    rw [responseOf_dec4_of_invalid c0 c1 c2 c3 ((any_rlutRefuses_iff _).mpr hinvalid)]
    rfl
  case misplaced =>
    have haccepted : ¬ [c0, c1, c2, c3].any rlutRefuses = true := fun h =>
      let ⟨c, hc, hinvalid⟩ := (any_rlutRefuses_iff _).mp h
      hvalid c hc hinvalid
    simp only [← isPad_rlut_iff, ne_eq, Bool.not_eq_true] at hpads
    rw [responseOf_dec4_of_misplaced c0 c1 c2 c3 haccepted (padcls_eq_misplaced _ _ _ _ hpads)]
    rfl

/-! ## Accepted groups -/

/-- DEC4 of the four characters of a group. -/
def Chars4.dec4 (c : Chars4) : Instr := .dec4 c.c0 c.c1 c.c2 c.c3

/-- R134: the bytes that `drop` keeps are those that `fill` leaves. -/
theorem drop_eq_fill (pad : PadField) (o : Bytes3) (h : pad ≠ 3#2) : drop pad o = (3#2 - pad, fill pad o) := by
  rcases pad_cases pad h with rfl | rfl | rfl <;> rfl

/-- R134: what the sextet in the place of the pad character holds reaches the dropped byte only. -/
theorem drop_one_pck6 (s0 s1 s2 x y : Sextet) :
    drop 1#2 (ext8 (pck6 ⟨s0, s1, s2, x⟩)) = drop 1#2 (ext8 (pck6 ⟨s0, s1, s2, y⟩)) := by
  rw [ext8_pck6_eq, ext8_pck6_eq]
  rfl

/-- R134: what the sextets in the places of the two pad characters hold reaches the dropped bytes only. -/
theorem drop_two_pck6 (s0 s1 x2 x3 y2 y3 : Sextet) :
    drop 2#2 (ext8 (pck6 ⟨s0, s1, x2, x3⟩)) = drop 2#2 (ext8 (pck6 ⟨s0, s1, y2, y3⟩)) := by
  rw [ext8_pck6_eq, ext8_pck6_eq]
  rfl

/-- DEC4 of the characters of four sextets, the last `pad` of them replaced, answers the bytes of the sextets' block. -/
theorem responseOf_dec4_padrep (pad : PadField) (v : Sextets) (h : pad ≠ 3#2) :
    responseOf (padrep pad (alutAll v)).dec4 =
      okResponse (drop pad (ext8 (pck6 v))).1 (bytesPayload (drop pad (ext8 (pck6 v))).2) := by
  rcases pad_cases pad h with rfl | rfl | rfl
  · have hgroup : (padrep 0#2 (alutAll v)).dec4 = .dec4 (alut v.s0) (alut v.s1) (alut v.s2) (alut v.s3) := rfl
    rw [hgroup, responseOf, rlut_alut, rlut_alut, rlut_alut, rlut_alut]
    rfl
  · have hgroup : (padrep 1#2 (alutAll v)).dec4 = .dec4 (alut v.s0) (alut v.s1) (alut v.s2) 0x3D#8 := rfl
    rw [hgroup, responseOf, rlut_alut, rlut_alut, rlut_alut, rlut_pad, drop_one_pck6 v.s0 v.s1 v.s2 v.s3 0#6]
    rfl
  · have hgroup : (padrep 2#2 (alutAll v)).dec4 = .dec4 (alut v.s0) (alut v.s1) 0x3D#8 0x3D#8 := rfl
    rw [hgroup, responseOf, rlut_alut, rlut_alut, rlut_pad, drop_two_pck6 v.s0 v.s1 v.s2 v.s3 0#6 0#6]
    rfl

theorem issue_dec4_padrep (pad : PadField) (v : Sextets) (h : pad ≠ 3#2) :
    issue (encode (padrep pad (alutAll v)).dec4) =
      (okResponse (3#2 - pad) (bytesPayload (fill pad (ext8 (pck6 v))))).toWord := by
  rw [issue_encode _ rfl, responseOf_dec4_padrep pad v h, drop_eq_fill pad _ h]

/-- The completion of DEC4 for an accepted group, as the spec writes the response. -/
theorem exec_dec4_padrep (pad : PadField) (v : Sextets) (s : State) (h : pad ≠ 3#2) :
    exec (padrep pad (alutAll v)).dec4 s = .next (answered s (rsp 0 (3 - pad.toNat)
      (lanes4 0 (groupByte (3 - pad.toNat) (blockOfSextets v.s0.toNat v.s1.toNat v.s2.toNat v.s3.toNat) 0)
        (groupByte (3 - pad.toNat) (blockOfSextets v.s0.toNat v.s1.toNat v.s2.toNat v.s3.toNat) 1)
        (groupByte (3 - pad.toNat) (blockOfSextets v.s0.toNat v.s1.toNat v.s2.toNat v.s3.toNat) 2)))) := by
  rw [exec_eq, answer_eq_answered, responseOf_dec4_padrep pad v h, drop_ext8_toWord pad _ h, pck6_toNat]

/-- R26: a code with a value is the character of the sextet of that value. -/
theorem exists_alut_of_charValue (c : Byte) (v : Nat) (h : charValue c.toNat = some v) :
    ∃ i : Sextet, alut i = c ∧ i.toNat = v :=
  ⟨RVAL c, alut_RVAL c (RCLASS_of_charValue c v h), RVAL_toNat_of_charValue c v h⟩

/-- Settles O39: each clause is the completion for its pad count; a pad character stands for the sextet 0. -/
theorem dec4AnswersTheBytes : Obligations.Dec4AnswersTheBytes := by
  intro c0 c1 c2 c3 v0 v1 s h0 h1
  obtain ⟨s0, rfl, rfl⟩ := exists_alut_of_charValue c0 v0 h0
  obtain ⟨s1, rfl, rfl⟩ := exists_alut_of_charValue c1 v1 h1
  refine ⟨fun v2 v3 h2 h3 => ?three, fun v2 h2 hpad3 => ?two, fun hpad2 hpad3 => ?one⟩
  case three =>
    obtain ⟨s2, rfl, rfl⟩ := exists_alut_of_charValue c2 v2 h2
    obtain ⟨s3, rfl, rfl⟩ := exists_alut_of_charValue c3 v3 h3
    exact exec_dec4_padrep 0#2 ⟨s0, s1, s2, s3⟩ s (by decide)
  case two =>
    obtain ⟨s2, rfl, rfl⟩ := exists_alut_of_charValue c2 v2 h2
    subst hpad3
    exact exec_dec4_padrep 1#2 ⟨s0, s1, s2, 0#6⟩ s (by decide)
  case one =>
    subst hpad2 hpad3
    exact exec_dec4_padrep 2#2 ⟨s0, s1, 0#6, 0#6⟩ s (by decide)

/-- A code of neither other class is the character of its value. -/
theorem eq_alut_of_lookup (c : Byte) (hinvalid : (rlut c).isInvalid = false) (hpad : (rlut c).isPad = false) :
    c = alut (rlut c).sextet := by
  cases hlookup : rlut c with
  | value v => exact ((rlut_eq_value_iff c v).mp hlookup).symm
  | pad => exact absurd ((congrArg Lookup.isPad hlookup).symm.trans hpad) (by decide)
  | invalid => exact absurd ((congrArg Lookup.isInvalid hlookup).symm.trans hinvalid) (by decide)

theorem Chars4.eq_of_chars {x y : Chars4} (h0 : x.c0 = y.c0) (h1 : x.c1 = y.c1) (h2 : x.c2 = y.c2)
    (h3 : x.c3 = y.c3) : x = y :=
  (Chars4.mk.injEq ..).mpr ⟨h0, h1, h2, h3⟩

/-- DEC4 answers `OK` to no other groups than the characters of four sextets with the last 0, 1 or 2 replaced. -/
theorem exists_padrep_of_dec4_ok (c0 c1 c2 c3 : Byte) (hok : statusField (issue (encode (.dec4 c0 c1 c2 c3))) = 0#3) :
    ∃ (pad : PadField) (v : Sextets), pad ≠ 3#2 ∧ ⟨c0, c1, c2, c3⟩ = padrep pad (alutAll v) := by
  rw [issue_encode _ rfl, statusField_toWord] at hok
  have haccepted : ¬ [c0, c1, c2, c3].any rlutRefuses = true := fun hrefused => by
    rw [responseOf_dec4_of_invalid c0 c1 c2 c3 hrefused] at hok
    exact absurd hok (by decide)
  have hvalid := any_rlutRefuses c0 c1 c2 c3 ▸ Bool.eq_false_iff.mpr haccepted
  simp only [Bool.or_eq_false_iff] at hvalid
  obtain ⟨⟨⟨hvalid0, hvalid1⟩, hvalid2⟩, hvalid3⟩ := hvalid
  have hpattern := padcls_eq_ite (rlut c0).isPad (rlut c1).isPad (rlut c2).isPad (rlut c3).isPad
  simp only [List.cons.injEq, and_true] at hpattern
  split_ifs at hpattern with hflags hflags hflags
  · obtain ⟨hflag0, hflag1, hflag2, hflag3⟩ := hflags
    exact ⟨0#2, ⟨_, _, _, _⟩, by decide, Chars4.eq_of_chars (eq_alut_of_lookup c0 hvalid0 hflag0)
      (eq_alut_of_lookup c1 hvalid1 hflag1) (eq_alut_of_lookup c2 hvalid2 hflag2) (eq_alut_of_lookup c3 hvalid3 hflag3)⟩
  · obtain ⟨hflag0, hflag1, hflag2, hflag3⟩ := hflags
    exact ⟨1#2, ⟨_, _, _, 0#6⟩, by decide, Chars4.eq_of_chars (eq_alut_of_lookup c0 hvalid0 hflag0)
      (eq_alut_of_lookup c1 hvalid1 hflag1) (eq_alut_of_lookup c2 hvalid2 hflag2) ((isPad_rlut_iff c3).mp hflag3)⟩
  · obtain ⟨hflag0, hflag1, hflag2, hflag3⟩ := hflags
    exact ⟨2#2, ⟨_, _, 0#6, 0#6⟩, by decide, Chars4.eq_of_chars (eq_alut_of_lookup c0 hvalid0 hflag0)
      (eq_alut_of_lookup c1 hvalid1 hflag1) ((isPad_rlut_iff c2).mp hflag2) ((isPad_rlut_iff c3).mp hflag3)⟩
  · rw [responseOf_dec4_of_misplaced c0 c1 c2 c3 haccepted hpattern] at hok
    exact absurd hok (by decide)

end Sys2Proof.Machine
end

section
/-! The round trips of a group (spec/42_group_codec.md R136, R137): DEC4 gives back the filled bytes, and ENC3 the
characters of the groups whose left-over bits are zero. -/

namespace Sys2Proof.Machine

open Sys2Proof.Spec

/-! ## From bytes to bytes (R136) -/

theorem bytesPayload_toNat_eq_block (b : Bytes3) : (bytesPayload b).toNat = (cat3 b).toNat := by
  rw [bytesPayload_toNat, cat3_toNat_eq_sum, lanes4, blockOfBytes]
  omega

theorem fill_fill (pad : PadField) (b : Bytes3) (h : pad ≠ 3#2) : fill pad (fill pad b) = fill pad b := by
  rcases pad_cases pad h with rfl | rfl | rfl <;> rfl

theorem three_sub_pad_toNat (pad : PadField) (h : pad ≠ 3#2) : (3#2 - pad).toNat = 3 - pad.toNat := by
  revert pad; decide

/-- ENC3's payload is DEC4's format: four codes in lanes (R62, R64). -/
theorem requestWord_charsPayload (c : Chars4) : requestWord 5#3 (charsPayload c) = encode c.dec4 := rfl

/-- Settles O42: DEC4 is given the characters of the filled group's sextets (`issue_dec4_padrep`), whose block is the
block of the filled bytes. -/
theorem groupRoundTrip : Obligations.GroupRoundTrip := by
  intro pad b0 b1 b2 hpad
  rw [rspPayload_issue_enc3 pad b0 b1 b2 hpad, requestWord_charsPayload, encodeGroup,
    issue_dec4_padrep pad _ hpad, pck6_xtr6, ext8_cat3, fill_fill pad _ hpad, toWord_eq_rsp, okResponse,
    three_sub_pad_toNat pad hpad, bytesPayload_toNat_eq_block, cat3_fill_toNat pad b0 b1 b2 hpad]
  rfl

/-! ## From characters to characters (R137) -/

/-- Clearing the low bits of a word leaves it as it is exactly when they are zero. -/
theorem high_append_zero_eq_iff {m n : Nat} (x : BitVec (m + n)) :
    x.extractLsb' n m ++ 0#n = x ↔ x.extractLsb' 0 n = 0#n := by
  have hparts : x.extractLsb' n m ++ x.extractLsb' 0 n = x := BitVec.extractLsb'_append_extractLsb'
  constructor
  · intro h
    rw [← h]
    exact BitVec.extractLsb'_append_eq_right
  · intro h
    rwa [h] at hparts

theorem alut_eq_alut_iff (x y : Sextet) : alut x = alut y ↔ x = y := ⟨alut_injective x y, congrArg alut⟩

/-- R137: clearing the left-over bits leaves the characters as they are exactly when those bits are zero. -/
theorem padrep_clearLeftOver_iff (pad : PadField) (v : Sextets) (h : pad ≠ 3#2) :
    padrep pad (alutAll (clearLeftOver pad v)) = padrep pad (alutAll v) ↔
      (pad = 1#2 → v.s2.extractLsb' 0 2 = 0#2) ∧ (pad = 2#2 → v.s1.extractLsb' 0 4 = 0#4) := by
  rcases pad_cases pad h with rfl | rfl | rfl
  · simp [clearLeftOver]
  · rw [clearLeftOver_one, ← high_append_zero_eq_iff, ← alut_eq_alut_iff]
    simp [padrep, alutAll]
  · rw [clearLeftOver_two, ← high_append_zero_eq_iff (m := 2) (n := 4), ← alut_eq_alut_iff]
    simp [padrep, alutAll]

/-- The conditions of `padrep_clearLeftOver_iff` as a host reads them, from DEC4's count and the group's characters. -/
theorem leftOver_iff_RVAL (pad : PadField) (v : Sextets) (h : pad ≠ 3#2) :
    ((pad = 1#2 → v.s2.extractLsb' 0 2 = 0#2) ∧ (pad = 2#2 → v.s1.extractLsb' 0 4 = 0#4)) ↔
      (3#2 - pad = 2#2 → (RVAL (padrep pad (alutAll v)).c2).extractLsb' 0 2 = 0#2) ∧
      (3#2 - pad = 1#2 → (RVAL (padrep pad (alutAll v)).c1).extractLsb' 0 4 = 0#4) := by
  rcases pad_cases pad h with rfl | rfl | rfl <;> simp [padrep, alutAll, RVAL_alut]

theorem charsPayload_injective (x y : Chars4) (h : charsPayload x = charsPayload y) : x = y := by
  obtain ⟨hx0, hx1, hx2, hx3⟩ := lane_charsPayload x
  obtain ⟨hy0, hy1, hy2, hy3⟩ := lane_charsPayload y
  rw [h] at hx0 hx1 hx2 hx3
  exact Chars4.eq_of_chars (hx0.symm.trans hy0) (hx1.symm.trans hy1) (hx2.symm.trans hy2) (hx3.symm.trans hy3)

/-- ENC3's response word is that of four given characters exactly when it encodes its group to them. -/
theorem issue_enc3_eq_iff (pad : PadField) (b : Bytes3) (c : Chars4) (h : pad ≠ 3#2) :
    issue (encode (.enc3 pad b.o0 b.o1 b.o2)) = rsp 0 0 (lanes4 c.c0.toNat c.c1.toNat c.c2.toNat c.c3.toNat) ↔
      encodeGroup pad b = c := by
  rw [← lanes_toNat, ← okResponse_toWord, issue_enc3 pad _ _ _ h]
  refine ⟨fun hword => charsPayload_injective _ _ ?_, fun hgroup => hgroup ▸ rfl⟩
  have hpayload := congrArg rspPayload hword
  rwa [rspPayload_toWord, rspPayload_toWord] at hpayload

/-- ENC3 on the bytes that DEC4 keeps of a block gives the block's characters with their left-over bits cleared. -/
theorem encodeGroup_fill_ext8_pck6 (pad : PadField) (v : Sextets) (h : pad ≠ 3#2) :
    encodeGroup pad (fill pad (ext8 (pck6 v))) = padrep pad (alutAll (clearLeftOver pad v)) := by
  rw [encodeGroup, fill_fill pad _ h, xtr6_cat3_fill pad _ h, cat3_ext8, xtr6_pck6]

theorem lane_bytesPayload (d : Bytes3) :
    lane 1 (bytesPayload d) = d.o0 ∧ lane 2 (bytesPayload d) = d.o1 ∧ lane 3 (bytesPayload d) = d.o2 :=
  (lane_lanes 0#8 d.o0 d.o1 d.o2).2

/-- Settles O43: a group that DEC4 answers `OK` to is one of characters of sextets, and encoding its bytes again clears
the left-over bits of the sextets. -/
theorem groupConverseOnlyForCanonicalGroups : Obligations.GroupConverseOnlyForCanonicalGroups := by
  intro c0 c1 c2 c3 w hok
  obtain ⟨pad, v, hpad, hgroup⟩ := exists_padrep_of_dec4_ok c0 c1 c2 c3 hok
  obtain rfl : c0 = (padrep pad (alutAll v)).c0 := congrArg Chars4.c0 hgroup
  obtain rfl : c1 = (padrep pad (alutAll v)).c1 := congrArg Chars4.c1 hgroup
  obtain rfl : c2 = (padrep pad (alutAll v)).c2 := congrArg Chars4.c2 hgroup
  obtain rfl : c3 = (padrep pad (alutAll v)).c3 := congrArg Chars4.c3 hgroup
  have hw : w = (okResponse (3#2 - pad) (bytesPayload (fill pad (ext8 (pck6 v))))).toWord :=
    issue_dec4_padrep pad v hpad
  have hcount : countField w = 3#2 - pad := hw ▸ countField_toWord _
  have hpayload : rspPayload w = bytesPayload (fill pad (ext8 (pck6 v))) := hw ▸ rspPayload_toWord _
  obtain ⟨hlane1, hlane2, hlane3⟩ := lane_bytesPayload (fill pad (ext8 (pck6 v)))
  rw [hcount, hpayload, hlane1, hlane2, hlane3, sub_sub_cancel, ← leftOver_iff_RVAL pad v hpad,
    ← padrep_clearLeftOver_iff pad v hpad, ← encodeGroup_fill_ext8_pck6 pad v hpad]
  exact issue_enc3_eq_iff pad _ _ hpad

end Sys2Proof.Machine
end

section
/-! ENCODE's groups and commands (spec/43_message_procedures.md R161 to R163, spec/70_reset_and_hazards.md R224): the
working copy by its indices, the ENC3 command of each group, and what any host that meets its duties gets. -/

namespace Sys2Proof.Machine

open Sys2Proof.Spec

/-! ## The pad count and the working copy (R161, R162) -/

theorem padCount_of_mod_eq_zero (n : Nat) (h : n % 3 = 0) : padCount n = 0 := by rw [padCount, h]

theorem padCount_of_mod_eq_one (n : Nat) (h : n % 3 = 1) : padCount n = 2 := by rw [padCount, h]

theorem padCount_of_mod_eq_two (n : Nat) (h : n % 3 = 2) : padCount n = 1 := by rw [padCount, h]

theorem padCount_lt_three (n : Nat) : padCount n < 3 := Nat.lt_succ_of_le (padCount_le_PAD_MAX n)

/-- The pad count completes the last of `ceil(n / 3)` groups. -/
theorem length_add_padCount (n : Nat) : n + padCount n = 3 * ((n + 2) / 3) := by
  rw [padCount]
  omega

theorem workingCopy_length (msg : List Byte) :
    (workingCopy msg).length = msg.length + padCount msg.length := by
  rw [workingCopy, List.length_append, List.length_replicate]

/-- The working copy begins with the message. -/
theorem workingCopy_getElem? (msg : List Byte) (i : Nat) (h : i < msg.length) : (workingCopy msg)[i]? = msg[i]? :=
  List.getElem?_append_left h

theorem groups3_length : ∀ bs : List Byte, (groups3 bs).length = bs.length / 3
  | [] | [_] | [_, _] => by simp [groups3]
  | b0 :: b1 :: b2 :: rest => by
    simp only [groups3, List.length_cons, groups3_length rest]
    omega

/-- Whole groups are the bytes, three by three. -/
theorem flatMap_toList_groups3 : ∀ bs : List Byte, bs.length % 3 = 0 → (groups3 bs).flatMap Bytes3.toList = bs
  | [], _ => rfl
  | b0 :: b1 :: b2 :: rest, h => by
    have hrest : rest.length % 3 = 0 := by simpa only [List.length_cons, Nat.add_mod_right, Nat.add_assoc] using h
    rw [groups3, List.flatMap_cons, flatMap_toList_groups3 rest hrest]
    rfl

/-- R46: group `k` is the bytes `3k`, `3k + 1`, `3k + 2`. -/
theorem getElem?_of_groups3 : ∀ (bs : List Byte) (k : Nat) (g : Bytes3), (groups3 bs)[k]? = some g →
    bs[3 * k]? = some g.o0 ∧ bs[3 * k + 1]? = some g.o1 ∧ bs[3 * k + 2]? = some g.o2
  | b0 :: b1 :: b2 :: rest, 0, g, h => by
    obtain rfl : ⟨b0, b1, b2⟩ = g := Option.some.inj h
    exact ⟨rfl, rfl, rfl⟩
  | b0 :: b1 :: b2 :: rest, k + 1, g, h => getElem?_of_groups3 rest k g h

theorem workingCopy_groups_length (msg : List Byte) :
    (groups3 (workingCopy msg)).length = (msg.length + 2) / 3 := by
  rw [groups3_length, workingCopy_length, length_add_padCount, Nat.mul_div_cancel_left _ (by decide)]

theorem workingCopy_length_mod (msg : List Byte) : (workingCopy msg).length % 3 = 0 := by
  rw [workingCopy_length, length_add_padCount, Nat.mul_mod_right]

theorem lt_of_workingCopy_group (msg : List Byte) (k : Nat) (g : Bytes3)
    (h : (groups3 (workingCopy msg))[k]? = some g) : k < (msg.length + 2) / 3 :=
  workingCopy_groups_length msg ▸ (List.getElem?_eq_some_iff.mp h).1

/-- Settles O45: the groups are those of a list whose length is a multiple of 3, and a group's first byte is a real one
because the fill bytes are at most two. -/
theorem workingCopyGroups : Obligations.WorkingCopyGroups := by
  refine ⟨fun n => ⟨rfl, padCount_of_mod_eq_zero n, padCount_of_mod_eq_one n, padCount_of_mod_eq_two n,
    padCount_lt_three n⟩, fun msg => ⟨workingCopy_length msg, workingCopy_length_mod msg,
    workingCopy_groups_length msg, flatMap_toList_groups3 _ (workingCopy_length_mod msg), fun k g hg => ?_⟩⟩
  obtain ⟨h0, h1, h2⟩ := getElem?_of_groups3 _ k g hg
  have hreal : 3 * k < msg.length := by
    have := lt_of_workingCopy_group msg k g hg
    omega
  exact ⟨h0, h1, h2, (workingCopy_getElem? msg _ hreal).symm.trans h0⟩

/-! ## The commands (R163) -/

/-- Command `k` is ENC3 of group `k`, with the pad count in the last one only. -/
theorem encodeCommands_getElem? (pad : Nat) (gs : List Bytes3) (k : Nat) : (encodeCommands pad gs)[k]? =
    gs[k]?.map fun g => .enc3 (BitVec.ofNat 2 (if k + 1 = gs.length then pad else 0)) g.o0 g.o1 g.o2 := by
  induction gs using encodeCommands.induct generalizing k with
  | case1 => rfl
  | case2 g => cases k <;> rfl
  | case3 g g' gs ih =>
    cases k with
    | zero => simp [encodeCommands]
    | succ k => simpa [encodeCommands] using ih k

/-- Request word `k` of ENCODE, by the pad count that R224 names. -/
theorem encodeRequests_getElem? (msg : List Byte) (k : Nat) : (encodeRequests msg)[k]? =
    (groups3 (workingCopy msg))[k]?.map fun g =>
      encode (.enc3 (BitVec.ofNat 2 (groupPad msg k)) g.o0 g.o1 g.o2) := by
  rw [encodeRequests, List.getElem?_map, encodeCommands_getElem?, workingCopy_groups_length, Option.map_map]
  rfl

theorem encodeCommands_length (pad : Nat) (gs : List Bytes3) : (encodeCommands pad gs).length = gs.length := by
  induction gs using encodeCommands.induct with
  | case1 | case2 => rfl
  | case3 g g' gs ih => exact congrArg (· + 1) ih

theorem encodeRequests_length (msg : List Byte) : (encodeRequests msg).length = (msg.length + 2) / 3 := by
  rw [encodeRequests, List.length_map, encodeCommands_length, workingCopy_groups_length]

/-! ## The host's duties (R224) -/

theorem groupPad_lt_three (msg : List Byte) (k : Nat) : groupPad msg k < 3 := by
  rw [groupPad]
  split
  · exact padCount_lt_three _
  · decide

theorem ofNat_groupPad_toNat (msg : List Byte) (k : Nat) : (BitVec.ofNat 2 (groupPad msg k)).toNat = groupPad msg k :=
  Nat.mod_eq_of_lt (Nat.lt_succ_of_lt (groupPad_lt_three msg k))

theorem ofNat_groupPad_ne_three (msg : List Byte) (k : Nat) : BitVec.ofNat 2 (groupPad msg k) ≠ 3#2 := fun h => by
  have hpad := (ofNat_groupPad_toNat msg k).symm.trans (congrArg BitVec.toNat h)
  exact absurd (groupPad_lt_three msg k) (by rw [hpad]; decide)

/-- The bytes of a group before its pad lie in the message. -/
theorem realByte_lt_length (msg : List Byte) (k j : Nat) (hk : k < (msg.length + 2) / 3)
    (hj : j < 3 - groupPad msg k) : 3 * k + j < msg.length := by
  have hwhole := length_add_padCount msg.length
  rw [groupPad] at hj
  split at hj <;> omega

/-- ENCODE issues the bytes of the working copy, which are the message's where the group has no pad. -/
theorem encodeDuties_encodeRequests (msg : List Byte) : EncodeDuties msg (encodeRequests msg) := by
  refine ⟨encodeRequests_length msg, fun k hk => ?_⟩
  rw [encodeRequests_length] at hk
  obtain ⟨g, hg⟩ : ∃ g, (groups3 (workingCopy msg))[k]? = some g :=
    ⟨_, List.getElem?_eq_getElem (workingCopy_groups_length msg ▸ hk)⟩
  obtain ⟨h0, h1, h2⟩ := getElem?_of_groups3 _ k g hg
  refine ⟨g.o0, g.o1, g.o2, by rw [encodeRequests_getElem?, hg, Option.map_some], fun j hj => ?_⟩
  rw [← workingCopy_getElem? msg _ (realByte_lt_length msg k j hk hj)]
  match j, Nat.lt_of_lt_of_le hj (Nat.sub_le 3 _) with
  | 0, _ => exact h0.symm
  | 1, _ => exact h1.symm
  | 2, _ => exact h2.symm

/-- R130: filling keeps the bytes before the pad only. -/
theorem fill_congr (pad : PadField) (x y : Bytes3) (hpad : pad ≠ 3#2)
    (h : ∀ j, j < 3 - pad.toNat → x.toList[j]? = y.toList[j]?) : fill pad x = fill pad y := by
  obtain ⟨x0, x1, x2⟩ := x
  obtain ⟨y0, y1, y2⟩ := y
  have h0 (hj : 0 < 3 - pad.toNat) : x0 = y0 := Option.some.inj (h 0 hj)
  have h1 (hj : 1 < 3 - pad.toNat) : x1 = y1 := Option.some.inj (h 1 hj)
  have h2 (hj : 2 < 3 - pad.toNat) : x2 = y2 := Option.some.inj (h 2 hj)
  rcases pad_cases pad hpad with rfl | rfl | rfl
  · rw [h0 (by decide), h1 (by decide), h2 (by decide)]
  · rw [fill_one, fill_one, h0 (by decide), h1 (by decide)]
  · rw [fill_two, fill_two, h0 (by decide)]

/-- R163: the response depends on the real bytes of the group only. -/
theorem issue_enc3_congr (pad : PadField) (x y : Bytes3) (hpad : pad ≠ 3#2)
    (h : ∀ j, j < 3 - pad.toNat → x.toList[j]? = y.toList[j]?) :
    issue (encode (.enc3 pad x.o0 x.o1 x.o2)) = issue (encode (.enc3 pad y.o0 y.o1 y.o2)) := by
  rw [issue_enc3 pad _ _ _ hpad, issue_enc3 pad _ _ _ hpad, encodeGroup, encodeGroup]
  exact congrArg _ (by rw [fill_congr pad x y hpad h])

/-- Two hosts that meet their duties for the same message get the same responses. -/
theorem responses_eq_of_duties (msg : List Byte) (rs rs' : List Request) (h : EncodeDuties msg rs)
    (h' : EncodeDuties msg rs') : rs.map issue = rs'.map issue := by
  obtain ⟨hlength, hgroup⟩ := h
  obtain ⟨hlength', hgroup'⟩ := h'
  refine List.ext_getElem? fun k => ?_
  rw [List.getElem?_map, List.getElem?_map]
  by_cases hk : k < rs.length
  · obtain ⟨b0, b1, b2, hr, hbytes⟩ := hgroup k hk
    obtain ⟨b0', b1', b2', hr', hbytes'⟩ := hgroup' k (hlength'.trans hlength.symm ▸ hk)
    rw [hr, hr', Option.map_some, Option.map_some]
    refine congrArg some (issue_enc3_congr _ ⟨b0, b1, b2⟩ ⟨b0', b1', b2'⟩ (ofNat_groupPad_ne_three msg k)
      fun j hj => ?_)
    rw [ofNat_groupPad_toNat] at hj
    exact (hbytes j hj).trans (hbytes' j hj).symm
  · have hk' : ¬ k < rs'.length := hlength'.trans hlength.symm ▸ hk
    rw [List.getElem?_eq_none (Nat.le_of_not_lt hk), List.getElem?_eq_none (Nat.le_of_not_lt hk')]

/-- Settles O46: ENCODE is itself a host that meets its duties, and two such hosts get the same responses. -/
theorem anyDutifulHostGetsTheEncodedText : Obligations.AnyDutifulHostGetsTheEncodedText := by
  refine ⟨encodeDuties_encodeRequests, fun msg rs h => ?_⟩
  rw [encodeMsg, responses_eq_of_duties msg rs _ h (encodeDuties_encodeRequests msg)]

/-! ## The length of the text (R165) and ENCODE's statuses (R169) -/

theorem length_flatMap_of_length_eq {α β : Type} (f : α → List β) (n : Nat) (h : ∀ x, (f x).length = n) (xs : List α) :
    (xs.flatMap f).length = xs.length * n := by
  rw [List.length_flatMap, List.map_congr_left fun x _ => h x, List.map_const', List.sum_replicate, smul_eq_mul]

theorem assembleText_length (ws : List ResponseWord) : (assembleText ws).length = ws.length * 4 :=
  length_flatMap_of_length_eq _ 4 (fun _ => rfl) ws

/-- Settles O48: four characters for each of the `ceil(len / 3)` responses. -/
theorem encodedLengthLaw : Obligations.EncodedLengthLaw := by
  intro msg
  have hlength : (assembleText ((encodeRequests msg).map issue)).length = (msg.length + 2) / 3 * 4 := by
    rw [assembleText_length, List.length_map, encodeRequests_length]
  exact ⟨_, rfl, hlength, hlength ▸ Nat.mul_mod_left _ 4⟩

/-- Every request word of ENCODE is a legal ENC3. -/
theorem exists_enc3_of_mem_encodeRequests (msg : List Byte) (r : Request) (h : r ∈ encodeRequests msg) :
    ∃ (pad : PadField) (b0 b1 b2 : Byte), pad ≠ 3#2 ∧ r = encode (.enc3 pad b0 b1 b2) := by
  obtain ⟨k, hk⟩ := List.mem_iff_getElem?.mp h
  rw [encodeRequests_getElem?, Option.map_eq_some_iff] at hk
  obtain ⟨g, -, rfl⟩ := hk
  exact ⟨_, g.o0, g.o1, g.o2, ofNat_groupPad_ne_three msg k, rfl⟩

/-- The statuses that a request word can be answered with, by its opcode (R74, R190). -/
theorem statusField_issue_cases (r : Request) :
    statusField (issue r) = 0#3 ∨ statusField (issue r) = 4#3 ∨
    (statusField (issue r) = 2#3 ∧ (opOf r = 3#3 ∨ opOf r = 5#3)) ∨
    (statusField (issue r) = 3#3 ∧ opOf r = 5#3) := by
  rw [issue_eq]
  cases hdecode : decode r with
  | error e =>
    rw [responseTo_of_error r e hdecode]
    exact .inr (.inl rfl)
  | ok i =>
    obtain ⟨-, hwf⟩ := encode_of_decode r i hdecode
    have hopcode (m : Mnemonic) (hm : i.mnemonic = m) : opOf r = m.opcode := hm ▸ opOf_of_decode r i hdecode
    rw [responseTo_of_ok r i hdecode]
    rcases (answers_responseOf i).statusField_cases hwf with hok | ⟨hstatus, hm⟩ | ⟨hstatus, hm⟩
    · exact .inl hok
    · exact .inr (.inr (.inl ⟨hstatus, hm.imp (hopcode _) (hopcode _)⟩))
    · exact .inr (.inr (.inr ⟨hstatus, hopcode _ hm⟩))

/-- Settles O52: ENCODE issues legal ENC3 words only, and the error statuses of its commands are those of other
opcodes. -/
theorem encodeDirectionHasNoError : Obligations.EncodeDirectionHasNoError := by
  refine ⟨fun msg => ⟨⟨_, rfl⟩, fun r hr => ?enc3⟩, fun r hop => ?ops⟩
  case enc3 =>
    obtain ⟨pad, b0, b1, b2, hpad, rfl⟩ := exists_enc3_of_mem_encodeRequests msg r hr
    rw [issue_enc3 pad b0 b1 b2 hpad, statusField_toWord]
    rfl
  case ops =>
    have hother : opOf r ≠ 3#3 ∧ opOf r ≠ 5#3 := by rcases hop with h | h | h | h <;> rw [h] <;> decide
    rcases statusField_issue_cases r with hok | hillegal | ⟨-, h3 | h5⟩ | ⟨-, h5⟩
    · exact .inl hok
    · exact .inr hillegal
    · exact absurd h3 hother.1
    · exact absurd h5 hother.2
    · exact absurd h5 hother.2

end Sys2Proof.Machine
end

section
/-! The procedures on the machine (spec/43_message_procedures.md R171, R173, R181, R182, R191): the groups of a text,
DECODE's commands, and the runs that answer the two procedures' request words. -/

namespace Sys2Proof.Machine

open Sys2Proof.Spec

/-! ## The groups of a text (R46) and DECODE's commands (R173) -/

theorem groups4_length : ∀ cs : List Byte, (groups4 cs).length = cs.length / 4
  | [] | [_] | [_, _] | [_, _, _] => by simp [groups4]
  | c0 :: c1 :: c2 :: c3 :: rest => by
    simp only [groups4, List.length_cons, groups4_length rest]
    omega

/-- A text of whole groups is its characters, four by four. -/
theorem flatMap_toList_groups4 : ∀ cs : List Byte, cs.length % 4 = 0 → (groups4 cs).flatMap Chars4.toList = cs
  | [], _ => rfl
  | c0 :: c1 :: c2 :: c3 :: rest, h => by
    have hrest : rest.length % 4 = 0 := by simpa only [List.length_cons, Nat.add_mod_right, Nat.add_assoc] using h
    rw [groups4, List.flatMap_cons, flatMap_toList_groups4 rest hrest]
    rfl

@[simp] theorem groups4_flatMap_toList (gs : List Chars4) : groups4 (gs.flatMap Chars4.toList) = gs := by
  induction gs with
  | nil => rfl
  | cons g gs ih => exact congrArg (g :: ·) ih

/-- A list of groups is a text of whole groups. -/
theorem length_flatMap_toList_mod (gs : List Chars4) : (gs.flatMap Chars4.toList).length % 4 = 0 := by
  rw [length_flatMap_of_length_eq Chars4.toList 4 (fun _ => rfl), Nat.mul_mod_left]

/-- The response to DEC4 of a group. -/
def dec4Response (g : Chars4) : ResponseWord := issue (encode g.dec4)

/-- DECODE's responses are those of the text's groups. -/
theorem map_issue_decodeRequests (txt : List Byte) (h : txt.length % 4 = 0) :
    (decodeRequests txt).map issue = (groups4 txt).map dec4Response := by
  rw [decodeRequests_of_whole_groups txt h, decodeCommands, List.map_map, List.map_map]
  rfl

theorem decodeMsg_of_length (txt : List Byte) (h : txt.length % 4 ≠ 0) : decodeMsg txt = .err .invalidLength :=
  if_pos h

theorem decodeMsg_of_whole_groups (txt : List Byte) (h : txt.length % 4 = 0) :
    decodeMsg txt = assembleMessage ((groups4 txt).map dec4Response) := by
  rw [decodeMsg, if_neg (not_not.mpr h), map_issue_decodeRequests txt h]

theorem decodeRequests_length (txt : List Byte) (h : txt.length % 4 = 0) :
    (decodeRequests txt).length = txt.length / 4 := by
  rw [decodeRequests_of_whole_groups txt h, decodeCommands, List.length_map, List.length_map, groups4_length]

/-! ## Runs of the procedures -/

/-- Settles O58: a run answers the presented request words each as `issue` does, and there is one for each group. -/
theorem proceduresRunOnTheMachine : Obligations.ProceduresRunOnTheMachine := by
  refine ⟨encodeRequests_length, decodeRequests_length, fun txt h => ⟨if_pos h, decodeMsg_of_length txt h⟩,
    fun msg s hpending => ⟨_, ?encode, rfl⟩, fun txt s hwhole hpending => ⟨_, ?decode, if_neg (not_not.mpr hwhole)⟩⟩
  case encode =>
    rw [← encodeRequests_length]
    exact run_whole_queue _ s hpending
  case decode =>
    rw [← decodeRequests_length txt hwhole]
    exact run_whole_queue _ s hpending

/-- Settles O19: a run answers each request as `issue` does, so keeping one procedure's responses is answering that
procedure's requests. -/
theorem interleavedProceduresDoNotInterfere : Obligations.InterleavedProceduresDoNotInterfere := by
  intro qs s hpending
  have hrun := run_whole_queue _ s hpending
  rw [List.length_map] at hrun
  refine ⟨_, hrun, fun p => ?_⟩
  rw [List.map_map, ← List.map_prod_left_eq_zip, List.filter_map, List.map_map]
  rfl

/-! ## InvalidLength (R171, R191) and the empty input (R168, R177) -/

/-- R191: DECODE's end reports no `InvalidLength`. -/
theorem decodeEnd_ne_invalidLength (acc : DecodeAcc) : decodeEnd acc ≠ .err .invalidLength := by
  rw [decodeEnd]
  split
  · nofun
  · split <;> nofun

/-- R191: the block has no command that answers status 1. -/
theorem statusField_issue_ne_invalidLength (r : Request) : statusField (issue r) ≠ 1#3 := by
  rcases statusField_issue_cases r with h | h | ⟨h, -⟩ | ⟨h, -⟩ <;> rw [h] <;> decide

/-- Settles O13: a step delivers the response to its request word, and DECODE tests the length before it issues a
command. -/
theorem invalidLengthComesFromDecodeOnly : Obligations.InvalidLengthComesFromDecodeOnly := by
  refine ⟨fun s t r rest hpending hstep => ?step, fun txt => ⟨fun hresult hwhole => ?length, decodeMsg_of_length txt⟩⟩
  case step =>
    obtain rfl := Host.Outcome.next.inj ((step_of_cons s r rest hpending).symm.trans hstep)
    exact ⟨_, answer_responses _ _, issue_eq r ▸ statusField_issue_ne_invalidLength r⟩
  case length =>
    rw [decodeMsg_of_whole_groups txt hwhole] at hresult
    exact decodeEnd_ne_invalidLength _ hresult

/-- Settles O51: neither input has a group. -/
theorem emptyInputIssuesNoCommand : Obligations.EmptyInputIssuesNoCommand := ⟨rfl, rfl, rfl, rfl⟩

end Sys2Proof.Machine
end

section
/-! Spellings: a well-formed text (spec/43_message_procedures.md R170) given by its sextets, group by group, with the
message it stands for. ENCODE's text is the spelling of the message (R163, R164, R166, R167). -/

namespace Sys2Proof.Machine

open Sys2Proof.Spec

/-! ## Texts by their sextets -/

/-- How a text ends after its groups of four alphabet characters: the accepted pad patterns of R133. -/
inductive TextEnd
  /-- No further group. -/
  | noPad
  /-- A group of three alphabet characters and a pad character. -/
  | onePad (s0 s1 s2 : Sextet)
  /-- A group of two alphabet characters and two pad characters. -/
  | twoPads (s0 s1 : Sextet)

namespace TextEnd

/-- The sextets of the last group's alphabet characters. -/
def sextets : TextEnd → List Sextet
  | noPad => []
  | onePad s0 s1 s2 => [s0, s1, s2]
  | twoPads s0 s1 => [s0, s1]

/-- The number of pad characters. -/
def pads : TextEnd → Nat
  | noPad => 0
  | onePad _ _ _ => 1
  | twoPads _ _ => 2

/-- The last group's characters, where there is a group with pads. -/
def groups : TextEnd → List Chars4
  | noPad => []
  | onePad s0 s1 s2 => [⟨alut s0, alut s1, alut s2, PADCHAR⟩]
  | twoPads s0 s1 => [⟨alut s0, alut s1, PADCHAR, PADCHAR⟩]

/-- The bytes the last group keeps; a pad character stands for the sextet 0 (R93, R134). -/
def bytes : TextEnd → List Byte
  | noPad => []
  | onePad s0 s1 s2 => (ext8 (pck6 ⟨s0, s1, s2, 0#6⟩)).toList.take 2
  | twoPads s0 s1 => (ext8 (pck6 ⟨s0, s1, 0#6, 0#6⟩)).toList.take 1

end TextEnd

/-- The four sextets of a group, as a list. -/
def Sextets.toList (v : Sextets) : List Sextet := [v.s0, v.s1, v.s2, v.s3]

/-- The bytes of a group of four sextets (R112, R113). -/
def Sextets.bytes (v : Sextets) : List Byte := (ext8 (pck6 v)).toList

/-- A text by the sextets of its whole groups and its end. -/
structure Spelling where
  whole : List Sextets
  last  : TextEnd

namespace Spelling

/-- The groups of the text. -/
def groups (x : Spelling) : List Chars4 := x.whole.map alutAll ++ x.last.groups

/-- The text. -/
def text (x : Spelling) : List Byte := x.groups.flatMap Chars4.toList

/-- The sextets of all alphabet characters of the text. -/
def sextets (x : Spelling) : List Sextet := x.whole.flatMap Sextets.toList ++ x.last.sextets

/-- The message the text stands for. -/
def bytes (x : Spelling) : List Byte := x.whole.flatMap Sextets.bytes ++ x.last.bytes

/-- A spelling with one more group of four alphabet characters before it. -/
def cons (v : Sextets) (x : Spelling) : Spelling := ⟨v :: x.whole, x.last⟩

@[simp] theorem cons_last (v : Sextets) (x : Spelling) : (x.cons v).last = x.last := rfl
@[simp] theorem cons_groups (v : Sextets) (x : Spelling) : (x.cons v).groups = alutAll v :: x.groups := rfl
@[simp] theorem cons_text (v : Sextets) (x : Spelling) : (x.cons v).text = (alutAll v).toList ++ x.text := rfl
@[simp] theorem cons_sextets (v : Sextets) (x : Spelling) : (x.cons v).sextets = v.toList ++ x.sextets := rfl
@[simp] theorem cons_bytes (v : Sextets) (x : Spelling) : (x.cons v).bytes = v.bytes ++ x.bytes := rfl

theorem eq_cons (v : Sextets) (vs : List Sextets) (e : TextEnd) : (⟨v :: vs, e⟩ : Spelling) = cons v ⟨vs, e⟩ := rfl

/-- R170: the alphabet characters of the text and then its pad characters. -/
theorem text_eq_append_pads (x : Spelling) :
    x.text = x.sextets.map alut ++ List.replicate x.last.pads PADCHAR := by
  obtain ⟨vs, e⟩ := x
  induction vs with
  | nil => cases e <;> rfl
  | cons v vs ih =>
    rw [eq_cons, cons_text, ih, cons_sextets, List.map_append, List.append_assoc]
    rfl

end Spelling

/-! ## The spelling of a message (R162, R163) -/

/-- The sextets of a message's groups, of which the last one is filled. -/
def spellingOf : List Byte → Spelling
  | [] => ⟨[], .noPad⟩
  | [b0] => ⟨[], .twoPads (xtr6 (cat3 ⟨b0, FILL, FILL⟩)).s0 (xtr6 (cat3 ⟨b0, FILL, FILL⟩)).s1⟩
  | [b0, b1] => ⟨[], .onePad (xtr6 (cat3 ⟨b0, b1, FILL⟩)).s0 (xtr6 (cat3 ⟨b0, b1, FILL⟩)).s1
      (xtr6 (cat3 ⟨b0, b1, FILL⟩)).s2⟩
  | b0 :: b1 :: b2 :: rest => (spellingOf rest).cons (xtr6 (cat3 ⟨b0, b1, b2⟩))

theorem padCount_add_three (n : Nat) : padCount (n + 3) = padCount n := by
  rw [padCount, padCount, Nat.add_mod_right]

theorem spellingOf_pads (msg : List Byte) : (spellingOf msg).last.pads = padCount msg.length := by
  induction msg using spellingOf.induct with
  | case1 | case2 | case3 => rfl
  | case4 b0 b1 b2 rest ih => exact ih.trans (padCount_add_three rest.length).symm

/-- The sextet that a pad character replaces is 0 already (R131). -/
theorem xtr6_cat3_one_fill (b0 b1 : Byte) :
    (⟨(xtr6 (cat3 ⟨b0, b1, FILL⟩)).s0, (xtr6 (cat3 ⟨b0, b1, FILL⟩)).s1, (xtr6 (cat3 ⟨b0, b1, FILL⟩)).s2, 0#6⟩ :
      Sextets) = xtr6 (cat3 ⟨b0, b1, FILL⟩) :=
  have hcleared := xtr6_cat3_fill 1#2 ⟨b0, b1, FILL⟩ (by decide)
  (Sextets.mk.injEq ..).mpr ⟨rfl, rfl, rfl, (congrArg Sextets.s3 hcleared).symm⟩

/-- The sextets that two pad characters replace are 0 already (R131). -/
theorem xtr6_cat3_two_fills (b0 : Byte) :
    (⟨(xtr6 (cat3 ⟨b0, FILL, FILL⟩)).s0, (xtr6 (cat3 ⟨b0, FILL, FILL⟩)).s1, 0#6, 0#6⟩ : Sextets) =
      xtr6 (cat3 ⟨b0, FILL, FILL⟩) :=
  have hcleared := xtr6_cat3_fill 2#2 ⟨b0, FILL, FILL⟩ (by decide)
  (Sextets.mk.injEq ..).mpr ⟨rfl, rfl, (congrArg Sextets.s2 hcleared).symm, (congrArg Sextets.s3 hcleared).symm⟩

theorem bytes_xtr6_cat3 (b : Bytes3) : (xtr6 (cat3 b)).bytes = b.toList := by
  rw [Sextets.bytes, pck6_xtr6, ext8_cat3]

/-- The spelling of a message stands for the message. -/
theorem bytes_spellingOf (msg : List Byte) : (spellingOf msg).bytes = msg := by
  induction msg using spellingOf.induct with
  | case1 => rfl
  | case2 b0 =>
    rw [spellingOf, Spelling.bytes, TextEnd.bytes, xtr6_cat3_two_fills]
    exact congrArg (List.take 1) (bytes_xtr6_cat3 ⟨b0, FILL, FILL⟩)
  | case3 b0 b1 =>
    rw [spellingOf, Spelling.bytes, TextEnd.bytes, xtr6_cat3_one_fill]
    exact congrArg (List.take 2) (bytes_xtr6_cat3 ⟨b0, b1, FILL⟩)
  | case4 b0 b1 b2 rest ih =>
    rw [spellingOf, Spelling.cons_bytes, bytes_xtr6_cat3, ih]
    rfl

/-! ## ENCODE, group by group -/

theorem groups3_workingCopy_cons (b0 b1 b2 : Byte) (rest : List Byte) :
    groups3 (workingCopy (b0 :: b1 :: b2 :: rest)) = ⟨b0, b1, b2⟩ :: groups3 (workingCopy rest) := by
  rw [workingCopy, List.length_cons, List.length_cons, List.length_cons, padCount_add_three]
  rfl

/-- The first of several groups has no pad, and neither has the only group of three bytes. -/
theorem encodeRequests_cons (b0 b1 b2 : Byte) (rest : List Byte) :
    encodeRequests (b0 :: b1 :: b2 :: rest) = encode (.enc3 0#2 b0 b1 b2) :: encodeRequests rest := by
  have hpad : padCount (b0 :: b1 :: b2 :: rest).length = padCount rest.length := padCount_add_three rest.length
  rw [encodeRequests, encodeRequests, groups3_workingCopy_cons, hpad]
  cases hgroups : groups3 (workingCopy rest) with
  | cons g gs => rfl
  | nil =>
    have hlength := workingCopy_groups_length rest
    rw [hgroups, List.length_nil] at hlength
    obtain rfl : rest = [] := List.eq_nil_of_length_eq_zero (by omega)
    rfl

/-- The lanes of the response to ENC3 are the group's characters. -/
theorem lanesOf_issue_enc3 (pad : PadField) (b0 b1 b2 : Byte) (h : pad ≠ 3#2) :
    lanesOf (rspPayload (issue (encode (.enc3 pad b0 b1 b2)))) = (encodeGroup pad ⟨b0, b1, b2⟩).toList := by
  rw [rspPayload_issue_enc3 pad b0 b1 b2 h, charsPayload, lanesOf_lanes]
  rfl

theorem assembleText_map_issue_cons (pad : PadField) (b0 b1 b2 : Byte) (rs : List Request) (h : pad ≠ 3#2) :
    assembleText ((encode (.enc3 pad b0 b1 b2) :: rs).map issue) =
      (encodeGroup pad ⟨b0, b1, b2⟩).toList ++ assembleText (rs.map issue) := by
  rw [List.map_cons, assembleText, List.flatMap_cons, lanesOf_issue_enc3 pad b0 b1 b2 h]
  rfl

/-- ENCODE's text is the spelling of the message. -/
theorem encodeMsg_eq (msg : List Byte) : encodeMsg msg = .ok (spellingOf msg).text := by
  refine congrArg ProcResult.ok ?_
  induction msg using spellingOf.induct with
  | case1 => rfl
  | case2 b0 => exact assembleText_map_issue_cons 2#2 b0 FILL FILL [] (by decide)
  | case3 b0 b1 => exact assembleText_map_issue_cons 1#2 b0 b1 FILL [] (by decide)
  | case4 b0 b1 b2 rest ih =>
    rw [encodeRequests_cons, assembleText_map_issue_cons 0#2 b0 b1 b2 _ (by decide), ih]
    rfl

/-! ## The source's ENCODE (R164) -/

/-- The text of all groups before any character is replaced (R164). -/
def unpaddedText (msg : List Byte) : List Byte :=
  (groups3 (workingCopy msg)).flatMap fun g => (alutAll (xtr6 (cat3 g))).toList

theorem encodeOnce_eq_rdrop (msg : List Byte) : encodeOnce msg =
    (unpaddedText msg).rdrop (padCount msg.length) ++ List.replicate (padCount msg.length) PADCHAR := rfl

theorem unpaddedText_cons (b0 b1 b2 : Byte) (rest : List Byte) : unpaddedText (b0 :: b1 :: b2 :: rest) =
    (alutAll (xtr6 (cat3 ⟨b0, b1, b2⟩))).toList ++ unpaddedText rest := by
  rw [unpaddedText, groups3_workingCopy_cons]
  rfl

/-- The characters that are replaced are those of the last group, so there are enough of them after the first one. -/
theorem padCount_le_unpaddedText_length (msg : List Byte) : padCount msg.length ≤ (unpaddedText msg).length := by
  have hlength : (unpaddedText msg).length = (msg.length + 2) / 3 * 4 := by
    rw [unpaddedText, length_flatMap_of_length_eq _ 4 fun _ => rfl, workingCopy_groups_length]
  have hwhole := length_add_padCount msg.length
  have hpad := padCount_lt_three msg.length
  omega

theorem encodeOnce_cons (b0 b1 b2 : Byte) (rest : List Byte) : encodeOnce (b0 :: b1 :: b2 :: rest) =
    (alutAll (xtr6 (cat3 ⟨b0, b1, b2⟩))).toList ++ encodeOnce rest := by
  have hpad : padCount (b0 :: b1 :: b2 :: rest).length = padCount rest.length := padCount_add_three rest.length
  rw [encodeOnce_eq_rdrop, encodeOnce_eq_rdrop, hpad, unpaddedText_cons,
    List.rdrop_append_of_le_length _ (padCount_le_unpaddedText_length rest), List.append_assoc]

theorem encodeOnce_eq (msg : List Byte) : encodeOnce msg = (spellingOf msg).text := by
  induction msg using spellingOf.induct with
  | case1 | case2 | case3 => rfl
  | case4 b0 b1 b2 rest ih => rw [encodeOnce_cons, ih, spellingOf, Spelling.cons_text]

/-- Settles O47: both texts are the spelling of the message; that replacing once reaches the last group only is
`encodeOnce_cons`. -/
theorem encodeEqualsPadReplacementOnce : Obligations.EncodeEqualsPadReplacementOnce := fun msg => by
  rw [encodeMsg_eq, encodeOnce_eq]

/-! ## The laws of ENCODE's text (R166, R167) -/

theorem encodeMsg_eq_append_pads (msg : List Byte) : encodeMsg msg =
    .ok ((spellingOf msg).sextets.map alut ++ List.replicate (padCount msg.length) PADCHAR) := by
  rw [encodeMsg_eq, Spelling.text_eq_append_pads, spellingOf_pads]

/-- Settles O49: the body is characters of sextets, and none of them is the pad character. -/
theorem encodedPaddingCountLaw : Obligations.EncodedPaddingCountLaw := by
  refine fun msg => ⟨_, encodeMsg_eq_append_pads msg, fun hpad => ?_⟩
  obtain ⟨s, -, hs⟩ := List.mem_map.mp hpad
  exact alut_ne_pad s hs

/-- Settles O50: a character of the text is that of a sextet, or one of the pad characters at its end. -/
theorem encodedAlphabetClosure : Obligations.EncodedAlphabetClosure := by
  intro msg txt hresult c hc
  obtain rfl := ProcResult.ok.inj ((encodeMsg_eq_append_pads msg).symm.trans hresult)
  rcases List.mem_append.mp hc with halpha | hpad
  · obtain ⟨s, -, rfl⟩ := List.mem_map.mp halpha
    exact ⟨.inl (alut_mem_ALPHA s), toNat_lt_of_mem_ALPHA _ (alut_mem_ALPHA s)⟩
  · obtain rfl := List.eq_of_mem_replicate hpad
    exact ⟨.inr rfl, by decide⟩

end Sys2Proof.Machine
end

section
/-! DECODE on spelled texts (spec/43_message_procedures.md R170, R172, R173, R176, R179): it gives the message that the
text stands for, and the well-formed texts are the spelled ones. -/

namespace Sys2Proof.Machine

open Sys2Proof.Spec

/-! ## DECODE's loop -/

/-- The last response is the one that none follows. -/
theorem takeResponses_cons (w : ResponseWord) (ws : List ResponseWord) (acc : DecodeAcc) :
    takeResponses (w :: ws) acc = takeResponses ws (takeResponse ws.isEmpty w acc) := by
  cases ws <;> rfl

theorem keptBytes_toWord (count : BitVec 2) (d : Bytes3) :
    keptBytes (okResponse count (bytesPayload d)).toWord = d.toList.take count.toNat := by
  obtain ⟨h1, h2, h3⟩ := lane_bytesPayload d
  rw [keptBytes, rspPayload_toWord, countField_toWord, okResponse, h1, h2, h3]
  rfl

/-- The bytes of an `OK` response are kept if they are three or the group is the last (R174). -/
theorem takeResponse_ok (last : Bool) (count : BitVec 2) (d : Bytes3) (acc : DecodeAcc)
    (h : last = true ∨ count = 3#2) :
    takeResponse last (okResponse count (bytesPayload d)).toWord acc =
      { acc with msg := acc.msg ++ d.toList.take count.toNat } := by
  have hstatus : statusField (okResponse count (bytesPayload d)).toWord = Status.ok.code := statusField_toWord _
  have hplace : ¬ (last = false ∧ countField (okResponse count (bytesPayload d)).toWord ≠ 3#2) := by
    rw [countField_toWord, okResponse]
    rintro ⟨rfl, hcount⟩
    exact h.elim (nomatch ·) hcount
  rw [takeResponse, if_neg (not_not.mpr hstatus), if_neg hplace, keptBytes_toWord]

theorem dec4Response_alutAll (v : Sextets) :
    dec4Response (alutAll v) = (okResponse 3#2 (bytesPayload (ext8 (pck6 v)))).toWord :=
  issue_dec4_padrep 0#2 v (by decide)

theorem dec4Response_onePad (s0 s1 s2 : Sextet) : dec4Response ⟨alut s0, alut s1, alut s2, PADCHAR⟩ =
    (okResponse 2#2 (bytesPayload (fill 1#2 (ext8 (pck6 ⟨s0, s1, s2, 0#6⟩))))).toWord :=
  issue_dec4_padrep 1#2 ⟨s0, s1, s2, 0#6⟩ (by decide)

theorem dec4Response_twoPads (s0 s1 : Sextet) : dec4Response ⟨alut s0, alut s1, PADCHAR, PADCHAR⟩ =
    (okResponse 1#2 (bytesPayload (fill 2#2 (ext8 (pck6 ⟨s0, s1, 0#6, 0#6⟩))))).toWord :=
  issue_dec4_padrep 2#2 ⟨s0, s1, 0#6, 0#6⟩ (by decide)

/-- The three bytes of four alphabet characters are kept wherever their group stands. -/
theorem takeResponse_alutAll (last : Bool) (v : Sextets) (acc : DecodeAcc) :
    takeResponse last (dec4Response (alutAll v)) acc = { acc with msg := acc.msg ++ v.bytes } := by
  rw [dec4Response_alutAll, takeResponse_ok last _ _ acc (.inr rfl)]
  rfl

theorem takeResponses_textEnd (e : TextEnd) (acc : DecodeAcc) :
    takeResponses (e.groups.map dec4Response) acc = { acc with msg := acc.msg ++ e.bytes } := by
  cases e with
  | noPad => rw [TextEnd.bytes, List.append_nil]; rfl
  | onePad s0 s1 s2 =>
    rw [TextEnd.groups, List.map_singleton, dec4Response_onePad]
    exact takeResponse_ok true _ _ acc (.inl rfl)
  | twoPads s0 s1 =>
    rw [TextEnd.groups, List.map_singleton, dec4Response_twoPads]
    exact takeResponse_ok true _ _ acc (.inl rfl)

/-- On a spelled text the loop notes no status and collects the message, whatever it began with. -/
theorem takeResponses_spelling (x : Spelling) (acc : DecodeAcc) :
    takeResponses (x.groups.map dec4Response) acc = { acc with msg := acc.msg ++ x.bytes } := by
  obtain ⟨vs, e⟩ := x
  induction vs generalizing acc with
  | nil => exact takeResponses_textEnd e acc
  | cons v vs ih =>
    rw [Spelling.eq_cons, Spelling.cons_groups, List.map_cons, takeResponses_cons, takeResponse_alutAll, ih,
      Spelling.cons_bytes, List.append_assoc]

/-- DECODE of a spelled text is the message it stands for. -/
theorem decodeMsg_text (x : Spelling) : decodeMsg x.text = .ok x.bytes := by
  rw [Spelling.text, decodeMsg_of_whole_groups _ (length_flatMap_toList_mod x.groups), groups4_flatMap_toList,
    assembleMessage, takeResponses_spelling]
  rfl

/-- Settles O56: ENCODE's text is the spelling of the message, and DECODE gives back what it stands for. -/
theorem messageRoundTrip : Obligations.MessageRoundTrip := fun msg =>
  ⟨(spellingOf msg).text, encodeMsg_eq msg, (decodeMsg_text _).trans (congrArg _ (bytes_spellingOf msg))⟩

/-- Settles O57: the two texts are evaluated; a text that ENCODE gives for some message is decoded to that message, so
no other message has it. -/
theorem decodeIsNotInjective : Obligations.DecodeIsNotInjective := by
  refine ⟨⟨by decide, by decide⟩, fun txt msg hdecode => ⟨fun h => ⟨msg, h⟩, fun ⟨m, hencode⟩ => ?_⟩⟩
  obtain ⟨txt', hencode', hdecode'⟩ := messageRoundTrip m
  obtain rfl := ProcResult.ok.inj (hencode.symm.trans hencode')
  obtain rfl := ProcResult.ok.inj (hdecode.symm.trans hdecode')
  exact hencode

/-! ## Trailing pads (R170, R172) -/

/-- The pad characters at the end, and what stands before them. -/
theorem rdrop_trailingPads_append (txt : List Byte) :
    txt.rdrop (trailingPads txt) ++ List.replicate (trailingPads txt) PADCHAR = txt := by
  have hlength : (txt.rtakeWhile (· == PADCHAR)).length = trailingPads txt := List.length_reverse
  have hpads : txt.rtakeWhile (· == PADCHAR) = List.replicate (trailingPads txt) PADCHAR :=
    List.eq_replicate_iff.mpr ⟨hlength, fun c hc => beq_iff_eq.mp (List.mem_rtakeWhile_imp (p := (· == PADCHAR)) hc)⟩
  have hparts : txt.rdropWhile (· == PADCHAR) ++ txt.rtakeWhile (· == PADCHAR) = txt :=
    List.rdropWhile_append_rtakeWhile
  rw [← hpads, ← hlength]
  nth_rw 1 [← hparts]
  rw [List.rdrop_append_length, hparts]

/-- A text of other characters and then `n` pad characters has `n` trailing ones. -/
theorem trailingPads_append_replicate (body : List Byte) (n : Nat) (h : ∀ c ∈ body, c ≠ PADCHAR) :
    trailingPads (body ++ List.replicate n PADCHAR) = n := by
  have hbody : body.reverse.takeWhile (· == PADCHAR) = [] := by
    cases hreverse : body.reverse with
    | nil => rfl
    | cons c cs =>
      have hc : c ∈ body := List.mem_reverse.mp (hreverse ▸ List.mem_cons_self)
      exact List.takeWhile_cons_of_neg (by simpa using h c hc)
  rw [trailingPads, List.reverse_append, List.reverse_replicate, List.takeWhile_append_of_pos, hbody, List.append_nil,
    List.length_replicate]
  exact fun c hc => beq_iff_eq.mpr (List.eq_of_mem_replicate hc)

theorem trailingPads_text (x : Spelling) : trailingPads x.text = x.last.pads := by
  rw [Spelling.text_eq_append_pads]
  refine trailingPads_append_replicate _ _ fun c hc => ?_
  obtain ⟨s, -, rfl⟩ := List.mem_map.mp hc
  exact alut_ne_pad s

/-! ## Well-formed texts are the spelled ones (R170) -/

theorem wellFormedText_iff (txt : List Byte) : wellFormedText txt = true ↔
    txt.length % 4 = 0 ∧ trailingPads txt ≤ 2 ∧ ∀ c ∈ txt.rdrop (trailingPads txt), RCLASS c = .alphaChar := by
  simp only [wellFormedText, Bool.and_eq_true, beq_iff_eq, decide_eq_true_eq, List.all_eq_true, and_assoc, List.rdrop]

theorem TextEnd.pads_le_two (e : TextEnd) : e.pads ≤ 2 := by
  cases e with
  | noPad | onePad | twoPads => simp only [TextEnd.pads, Nat.reduceLeDiff, Nat.le_refl]

theorem wellFormedText_text (x : Spelling) : wellFormedText x.text = true := by
  refine (wellFormedText_iff _).mpr ⟨length_flatMap_toList_mod x.groups, ?_, fun c hc => ?_⟩
  · exact trailingPads_text x ▸ x.last.pads_le_two
  · have hbody := List.rdrop_append_length (l₁ := x.sextets.map alut) (l₂ := List.replicate x.last.pads PADCHAR)
    rw [List.length_replicate, ← Spelling.text_eq_append_pads] at hbody
    rw [trailingPads_text, hbody] at hc
    obtain ⟨s, -, rfl⟩ := List.mem_map.mp hc
    exact RCLASS_alut s

/-- Sextets whose characters fill whole groups with at most two pad characters are those of a spelling. -/
theorem exists_spelling_of_sextets (pads : Nat) (hpads : pads ≤ 2) : ∀ ss : List Sextet, (ss.length + pads) % 4 = 0 →
    ∃ x : Spelling, x.sextets = ss ∧ x.last.pads = pads
  | [], h => ⟨⟨[], .noPad⟩, rfl, show 0 = pads by rw [List.length_nil] at h; omega⟩
  | [_], h => by rw [List.length_singleton] at h; omega
  | [s0, s1], h =>
    ⟨⟨[], .twoPads s0 s1⟩, rfl, show 2 = pads by simp only [List.length_cons, List.length_nil] at h; omega⟩
  | [s0, s1, s2], h =>
    ⟨⟨[], .onePad s0 s1 s2⟩, rfl, show 1 = pads by simp only [List.length_cons, List.length_nil] at h; omega⟩
  | s0 :: s1 :: s2 :: s3 :: ss, h => by
    simp only [List.length_cons] at h
    obtain ⟨x, hsextets, hlast⟩ := exists_spelling_of_sextets pads hpads ss (by omega)
    refine ⟨x.cons ⟨s0, s1, s2, s3⟩, ?_, hlast⟩
    rw [Spelling.cons_sextets, hsextets]
    rfl

theorem wellFormedText_iff_exists_spelling (txt : List Byte) :
    wellFormedText txt = true ↔ ∃ x : Spelling, x.text = txt := by
  refine ⟨fun hwf => ?_, fun ⟨x, hx⟩ => hx ▸ wellFormedText_text x⟩
  obtain ⟨hlength, hpads, halpha⟩ := (wellFormedText_iff txt).mp hwf
  have hparts := rdrop_trailingPads_append txt
  have hbody : ((txt.rdrop (trailingPads txt)).map RVAL).map alut = txt.rdrop (trailingPads txt) := by
    rw [List.map_map]
    exact (List.map_congr_left fun c hc => alut_RVAL c (halpha c hc)).trans (List.map_id _)
  have hwhole : (((txt.rdrop (trailingPads txt)).map RVAL).length + trailingPads txt) % 4 = 0 := by
    have hsum := congrArg List.length hparts
    rw [List.length_append, List.length_replicate] at hsum
    rw [List.length_map, hsum, hlength]
  obtain ⟨x, hsextets, hlast⟩ := exists_spelling_of_sextets _ hpads _ hwhole
  exact ⟨x, by rw [Spelling.text_eq_append_pads, hsextets, hlast, hbody, hparts]⟩

/-! ## The source's DECODE (R172) -/

/-- The three bytes of a group's looked-up characters before any is dropped (R172). -/
def lookupBytes (g : Chars4) : List Byte :=
  Sextets.bytes ⟨(rlut g.c0).sextet, (rlut g.c1).sextet, (rlut g.c2).sextet, (rlut g.c3).sextet⟩

theorem decodeOnce_eq_rdrop (txt : List Byte) :
    decodeOnce txt = ((groups4 txt).flatMap lookupBytes).rdrop (trailingPads txt) := rfl

theorem lookupBytes_alutAll (v : Sextets) : lookupBytes (alutAll v) = v.bytes := by
  rw [lookupBytes, alutAll, rlut_alut, rlut_alut, rlut_alut, rlut_alut]
  rfl

/-- The bytes of the last group that are dropped are as many as its pad characters. -/
theorem rdrop_lookupBytes_textEnd (e : TextEnd) : (e.groups.flatMap lookupBytes).rdrop e.pads = e.bytes := by
  cases e with
  | noPad => rfl
  | onePad s0 s1 s2 =>
    rw [TextEnd.groups, List.flatMap_singleton, lookupBytes, rlut_alut, rlut_alut, rlut_alut]
    rfl
  | twoPads s0 s1 =>
    rw [TextEnd.groups, List.flatMap_singleton, lookupBytes, rlut_alut, rlut_alut]
    rfl

theorem pads_le_lookupBytes_length (e : TextEnd) : e.pads ≤ (e.groups.flatMap lookupBytes).length := by
  cases e with
  | noPad => exact le_rfl
  | onePad s0 s1 s2 => exact show 1 ≤ 3 by decide
  | twoPads s0 s1 => exact show 2 ≤ 3 by decide

/-- Dropping once reaches the last group only. -/
theorem decodeOnce_text (x : Spelling) : decodeOnce x.text = x.bytes := by
  have hwhole : (x.whole.map alutAll).flatMap lookupBytes = x.whole.flatMap Sextets.bytes := by
    rw [List.flatMap_map]
    exact congrArg (List.flatMap · x.whole) (funext lookupBytes_alutAll)
  rw [decodeOnce_eq_rdrop, trailingPads_text, Spelling.text, groups4_flatMap_toList, Spelling.groups,
    List.flatMap_append, hwhole, List.rdrop_append_of_le_length _ (pads_le_lookupBytes_length x.last),
    rdrop_lookupBytes_textEnd]
  rfl

/-- Settles O54: a well-formed text is spelled, and both procedures give the message it stands for. -/
theorem decodeEqualsDropOnce : Obligations.DecodeEqualsDropOnce := by
  intro txt hwf
  obtain ⟨x, rfl⟩ := (wellFormedText_iff_exists_spelling txt).mp hwf
  rw [decodeMsg_text, decodeOnce_text]

end Sys2Proof.Machine
end

section
/-! DECODE's errors (spec/43_message_procedures.md R170, R174, R175, R197): which statuses the loop notes for a text,
and so that one error is reported, chosen by kind, exactly where the text is not well-formed. -/

namespace Sys2Proof.Machine

open Sys2Proof.Spec

/-! ## The statuses that DECODE notes (R173, R174) -/

/-- The status that DECODE notes for a response: its error, or `MisplacedPadding` for pads before the last group. -/
def notedStatus (last : Bool) (w : ResponseWord) : Option (BitVec 3) :=
  if statusField w ≠ Status.ok.code then some (statusField w)
  else if last = false ∧ countField w ≠ 3#2 then some Status.misplacedPadding.code
  else none

theorem mem_noteStatus_iff (k j : BitVec 3) (seen : List (BitVec 3)) : k ∈ noteStatus j seen ↔ k ∈ seen ∨ j = k := by
  rw [noteStatus]
  split
  next hmem => exact ⟨.inl, fun h => h.elim id (· ▸ hmem)⟩
  next => rw [List.mem_append, List.mem_singleton, eq_comm (a := j)]

theorem mem_seen_takeResponse_iff (k : BitVec 3) (last : Bool) (w : ResponseWord) (acc : DecodeAcc) :
    k ∈ (takeResponse last w acc).seen ↔ k ∈ acc.seen ∨ notedStatus last w = some k := by
  rw [takeResponse, notedStatus]
  split_ifs
  · rw [mem_noteStatus_iff, Option.some.injEq]
  · rw [mem_noteStatus_iff, Option.some.injEq]
  · simp only [or_false]

/-- A noted status stays noted. -/
theorem mem_seen_takeResponses_of_mem (k : BitVec 3) (ws : List ResponseWord) (acc : DecodeAcc) (h : k ∈ acc.seen) :
    k ∈ (takeResponses ws acc).seen := by
  induction ws generalizing acc with
  | nil => exact h
  | cons w ws ih =>
    rw [takeResponses_cons]
    exact ih _ ((mem_seen_takeResponse_iff k _ w acc).mpr (.inl h))

theorem mem_seen_takeResponses_of_noted (k : BitVec 3) (w : ResponseWord) (ws : List ResponseWord) (acc : DecodeAcc)
    (h : notedStatus ws.isEmpty w = some k) : k ∈ (takeResponses (w :: ws) acc).seen := by
  rw [takeResponses_cons]
  exact mem_seen_takeResponses_of_mem k ws _ ((mem_seen_takeResponse_iff k _ w acc).mpr (.inr h))

theorem notedStatus_of_error (last : Bool) (w : ResponseWord) (h : statusField w ≠ 0#3) :
    notedStatus last w = some (statusField w) :=
  if_pos h

theorem notedStatus_of_early_pads (w : ResponseWord) (hok : statusField w = 0#3) (hcount : countField w ≠ 3#2) :
    notedStatus false w = some 3#3 :=
  (if_neg (not_not.mpr hok)).trans (if_pos ⟨rfl, hcount⟩)

/-- `InvalidCharacter` is noted for the responses that have it, wherever they stand. -/
theorem notedStatus_eq_invalidCharacter_iff (last : Bool) (w : ResponseWord) :
    notedStatus last w = some 2#3 ↔ statusField w = 2#3 := by
  rw [notedStatus]
  split_ifs with herror hplace
  · rw [Option.some.injEq]
  · rw [not_not.mp herror]
    decide
  · rw [not_not.mp herror]
    decide

theorem invalidCharacter_mem_seen_iff (ws : List ResponseWord) (acc : DecodeAcc) :
    2#3 ∈ (takeResponses ws acc).seen ↔ 2#3 ∈ acc.seen ∨ ∃ w ∈ ws, statusField w = 2#3 := by
  induction ws generalizing acc with
  | nil => simp only [takeResponses, List.not_mem_nil, false_and, exists_false, or_false]
  | cons w ws ih =>
    rw [takeResponses_cons, ih, mem_seen_takeResponse_iff, notedStatus_eq_invalidCharacter_iff,
      List.exists_mem_cons_iff, or_assoc]

/-! ## The response to a group (R135) -/

theorem statusField_dec4Response (g : Chars4) : statusField (dec4Response g) = (responseOf g.dec4).status.code := by
  rw [dec4Response, issue_encode _ rfl, statusField_toWord]

theorem dec4Response_invalidCharacter_iff (g : Chars4) :
    statusField (dec4Response g) = 2#3 ↔ ∃ c ∈ g.toList, invalidCode c.toNat := by
  rw [statusField_dec4Response, Chars4.toList, ← any_rlutRefuses_iff]
  by_cases hrefused : [g.c0, g.c1, g.c2, g.c3].any rlutRefuses = true
  · rw [Chars4.dec4, responseOf_dec4_of_invalid _ _ _ _ hrefused]
    exact iff_of_true rfl hrefused
  · refine iff_of_false ?_ hrefused
    rw [Chars4.dec4, responseOf, if_neg (any_rlutRefuses g.c0 g.c1 g.c2 g.c3 ▸ hrefused)]
    split
    · decide
    · exact show (0#3 : BitVec 3) ≠ 2#3 by decide

/-- Without an invalid code DEC4 answers `OK` or `MisplacedPadding`. -/
theorem dec4Response_cases (g : Chars4) (h : ∀ c ∈ g.toList, ¬ invalidCode c.toNat) :
    statusField (dec4Response g) = 0#3 ∨ statusField (dec4Response g) = 3#3 := by
  have hnot : statusField (dec4Response g) ≠ 2#3 := fun hstatus =>
    let ⟨c, hc, hinvalid⟩ := (dec4Response_invalidCharacter_iff g).mp hstatus
    h c hc hinvalid
  have hcases := (answers_responseOf g.dec4).statusField_cases rfl
  rw [statusField_toWord, ← statusField_dec4Response] at hcases
  rcases hcases with hok | ⟨hinvalid, -⟩ | ⟨hmisplaced, -⟩
  · exact .inl hok
  · exact absurd hinvalid hnot
  · exact .inr hmisplaced

/-- A group that DEC4 accepts is a whole group of a spelling, or its end, with fewer than three bytes. -/
theorem group_cases_of_ok (g : Chars4) (hok : statusField (dec4Response g) = 0#3) :
    (∃ v, g = alutAll v) ∨ ∃ e : TextEnd, e.groups = [g] ∧ countField (dec4Response g) ≠ 3#2 := by
  obtain ⟨pad, v, hpad, hg⟩ := exists_padrep_of_dec4_ok g.c0 g.c1 g.c2 g.c3 hok
  have hcount : countField (dec4Response g) = 3#2 - pad := by
    have hgroup : g = padrep pad (alutAll v) := hg
    rw [hgroup]
    exact (congrArg countField (issue_dec4_padrep pad v hpad)).trans (countField_toWord _)
  rw [hcount]
  rcases pad_cases pad hpad with rfl | rfl | rfl
  · exact .inl ⟨v, hg⟩
  · exact .inr ⟨.onePad v.s0 v.s1 v.s2, congrArg (fun c => [c]) hg.symm, by decide⟩
  · exact .inr ⟨.twoPads v.s0 v.s1, congrArg (fun c => [c]) hg.symm, by decide⟩

/-! ## One error by kind (R175, R197) -/

/-- Groups without an invalid code are those of a spelling, or the loop notes `MisplacedPadding` for one of them. -/
theorem exists_spelling_or_misplaced (gs : List Chars4) (acc : DecodeAcc)
    (h : ∀ g ∈ gs, ∀ c ∈ g.toList, ¬ invalidCode c.toNat) :
    (∃ x : Spelling, x.groups = gs) ∨ 3#3 ∈ (takeResponses (gs.map dec4Response) acc).seen := by
  induction gs generalizing acc with
  | nil => exact .inl ⟨⟨[], .noPad⟩, rfl⟩
  | cons g gs ih =>
    obtain ⟨hg, hgs⟩ := List.forall_mem_cons.mp h
    rw [List.map_cons]
    rcases dec4Response_cases g hg with hok | hmisplaced
    · rcases group_cases_of_ok g hok with ⟨v, rfl⟩ | ⟨e, he, hcount⟩
      · rw [takeResponses_cons]
        exact (ih _ hgs).imp_left fun ⟨x, hx⟩ => ⟨x.cons v, congrArg (alutAll v :: ·) hx⟩
      · cases gs with
        | nil => exact .inl ⟨⟨[], e⟩, he⟩
        | cons g' gs =>
          exact .inr (mem_seen_takeResponses_of_noted _ _ _ acc (notedStatus_of_early_pads _ hok hcount))
    · have hnoted := notedStatus_of_error (gs.map dec4Response).isEmpty (dec4Response g)
        (hmisplaced ▸ by decide)
      exact .inr (mem_seen_takeResponses_of_noted _ _ _ acc (hnoted.trans (congrArg some hmisplaced)))

/-- The characters of a text of whole groups are those of its groups. -/
theorem mem_iff_mem_groups4 (txt : List Byte) (h : txt.length % 4 = 0) (c : Byte) :
    c ∈ txt ↔ ∃ g ∈ groups4 txt, c ∈ g.toList := by
  rw [← List.mem_flatMap, flatMap_toList_groups4 txt h]

/-- `InvalidCharacter` is noted exactly for a text with an invalid code, in whatever place. -/
theorem invalidCharacter_noted_iff (txt : List Byte) (h : txt.length % 4 = 0) (acc : DecodeAcc)
    (hacc : 2#3 ∉ acc.seen) : 2#3 ∈ (takeResponses ((groups4 txt).map dec4Response) acc).seen ↔
      ∃ c ∈ txt, invalidCode c.toNat := by
  rw [invalidCharacter_mem_seen_iff, or_iff_right hacc]
  simp only [List.mem_map, exists_exists_and_eq_and, dec4Response_invalidCharacter_iff, mem_iff_mem_groups4 txt h]
  exact ⟨fun ⟨g, hg, c, hc, hinvalid⟩ => ⟨c, ⟨g, hg, hc⟩, hinvalid⟩,
    fun ⟨c, ⟨g, hg, hc⟩, hinvalid⟩ => ⟨g, hg, c, hc, hinvalid⟩⟩

/-- Settles O55: DECODE's end looks for `InvalidCharacter` first; where it is not noted and the text is not spelled,
`MisplacedPadding` is. -/
theorem decodeReportsErrorsByKind : Obligations.DecodeReportsErrorsByKind := by
  refine fun txt => ⟨decodeMsg_of_length txt, fun hwhole hinvalid => ?invalid, fun hwhole hvalid hwf => ?misplaced⟩ <;>
    rw [decodeMsg_of_whole_groups txt hwhole, assembleMessage, decodeEnd]
  case invalid => exact if_pos ((invalidCharacter_noted_iff txt hwhole _ List.not_mem_nil).mpr hinvalid)
  case misplaced =>
    have hnot := (invalidCharacter_noted_iff txt hwhole ⟨[], []⟩ List.not_mem_nil).not.mpr
      fun ⟨c, hc, hinvalid⟩ => hvalid c hc hinvalid
    have hgroups : ∀ g ∈ groups4 txt, ∀ c ∈ g.toList, ¬ invalidCode c.toNat := fun g hg c hc =>
      hvalid c ((mem_iff_mem_groups4 txt hwhole c).mpr ⟨g, hg, hc⟩)
    rcases exists_spelling_or_misplaced _ ⟨[], []⟩ hgroups with ⟨x, hx⟩ | hmisplaced
    · have htext : x.text = txt := by rw [Spelling.text, hx, flatMap_toList_groups4 txt hwhole]
      exact absurd (hwf.symm.trans ((wellFormedText_iff_exists_spelling txt).mpr ⟨x, htext⟩)) Bool.false_ne_true
    · exact (if_neg hnot).trans (if_pos hmisplaced)

/-- Settles O53: every text that is not well-formed has an error by `decodeReportsErrorsByKind`. -/
theorem decodeSucceedsExactlyOnWellFormedTexts : Obligations.DecodeSucceedsExactlyOnWellFormedTexts := by
  refine fun txt => ⟨fun ⟨msg, hok⟩ => by_contra fun hwf => ?_, fun hwf => ⟨_, decodeEqualsDropOnce txt hwf⟩⟩
  obtain ⟨hlength, hinvalid, hmisplaced⟩ := decodeReportsErrorsByKind txt
  by_cases hwhole : txt.length % 4 = 0
  · by_cases hcode : ∃ c ∈ txt, invalidCode c.toNat
    · exact nomatch hok.symm.trans (hinvalid hwhole hcode)
    · have hvalid : ∀ c ∈ txt, ¬ invalidCode c.toNat := fun c hc hc' => hcode ⟨c, hc, hc'⟩
      exact nomatch hok.symm.trans (hmisplaced hwhole hvalid (Bool.eq_false_iff.mpr hwf))
  · exact nomatch hok.symm.trans (hlength hwhole)

end Sys2Proof.Machine
end
